-- ==== Sys2Proof/Word.lean ====
section
/-! DEFINITION. The word types of the block (00_scope.md R5 and R9): every value is unsigned. -/

namespace Sys2Proof

/-- A byte, `u8` (R9). -/
abbrev Byte := BitVec 8

/-- A 32-bit word, `u32`: `WORD_BITS` (R5). BitVec's `+` and `-` are the spec's `+32` and `-32` (R10). -/
abbrev Word := BitVec 32

/-- A file of `N_WORDS` = 16 words (R5, R21, R27). -/
abbrev Words := Vector Word 16

/-- The 64 bytes of one keystream block: `BLOCK_BYTES` (R5, R30). -/
abbrev Block := Vector Byte 64

/-- One beat of the command port: 386 bits, bit 0 the least significant (R80). -/
abbrev CommandWord := BitVec 386

end Sys2Proof
end

