-- ==== Sys2Proof/Config.lean ====
section
/-! DEFINITION. What is fixed for one machine: the configuration (00_scope.md R5, R6), the fixed parameters, and the
free values that stand for "no value" (10_state.md R26, R39). -/

namespace Sys2Proof

/-- `BYTE_ORDER`: least-significant byte first, or most-significant byte first (R5, R61). -/
inductive ByteOrder where
  | le
  | be
deriving DecidableEq, Repr

/-- `COUNTER_MODE`: the counter word wraps alone, or carries into word 13 on wrap (R5, R150, R151). -/
inductive CounterMode where
  | wrap32
  | carry64
deriving DecidableEq, Repr

/-- A configuration is one choice of `(BYTE_ORDER, COUNTER_MODE, SIGMA)`, fixed for the hardware (R6).
There is no choice for the reference implementation's one-byte-per-word packing (41_state_initializer.md R127). -/
structure Config where
  byteOrder   : ByteOrder
  counterMode : CounterMode
  sigma       : Vector Word 4
deriving DecidableEq, Repr

namespace Config

/-- The default configuration (R5, R6; 10_state.md R22). -/
def default : Config where
  byteOrder   := .le
  counterMode := .wrap32
  sigma       := #v[0x61707865, 0x3320646e, 0x79622d32, 0x6b206574]

/-- `KEY_BYTES` (R5). -/
def keyBytes : Nat := 32

/-- `NONCE_BYTES` (R5). -/
def nonceBytes : Nat := 12

/-- `BLOCK_BYTES` (R5). -/
def blockBytes : Nat := 64

/-- `ROUNDS` (R5): 20 rounds, which are 10 double-rounds. -/
def rounds : Nat := 20

/-- `DEFAULT_CTR` (R5): the starting counter when the caller supplies none. -/
def defaultCtr : Word := 0

/-- `GEN_LATENCY` (R5, 42_block_generator.md R162): the cycles from GEN accept to `valid`, timing only. -/
def genLatency : Nat := 22

/-- The word a register of words holds while the spec gives it "no value" (R26, R39). The first argument is the machine's
source of free values, the second counts the times its registers lost their values, the third numbers the register: 4 to 15
for `S[4..15]`, 16 to 31 for `X[0..15]`. It has no body, so no proof can rest on a value of it. DESIGN CHOICE, log entry 2;
safe. -/
opaque noValueWord : Nat → Nat → Nat → Word

/-- The same for the bytes of `OUT`, numbered 0 to 63 (R30, R39). DESIGN CHOICE, log entry 2; safe. -/
opaque noValueByte : Nat → Nat → Nat → Byte

end Config
end Sys2Proof
end

