-- ==== Sys2Proof/Syntax.lean ====
section
/-! DEFINITION. The commands of the block (30_encoding.md R81, spec/opcode_table.json), and everything the host can
present to it: beats, READs, resets, clock cycles, and the host forms of R90. -/

namespace Sys2Proof

/-- A command with its operands, one constructor per row of the opcode table. At the transaction level LOAD's key and
nonce are byte sequences of any length (R83). -/
inductive Instr where
  | nop
  | load (key nonce : List Byte) (ctr : Word)
  | gen
  | rsvd
deriving DecidableEq, Repr

/-- A LOAD with no `ctr` operand takes `DEFAULT_CTR` (R83, 92_eei_decisions.md D24). -/
def Instr.loadDefault (key nonce : List Byte) : Instr := .load key nonce Config.defaultCtr

/-- Which command a beat carries, without its operands: the info a fault records (60_exceptions.md R212). -/
inductive Command where
  | nop
  | load
  | gen
  | reserved
deriving DecidableEq, Repr

/-- The command that an instruction is. -/
def Instr.command : Instr → Command
  | .nop => .nop
  | .load _ _ _ => .load
  | .gen => .gen
  | .rsvd => .reserved

/-- What the host presents on the command port: a 386-bit command word (port level, R80), or a command with byte-sequence
operands (transaction level, R83). R214 allows the second in a clock cycle too ("a combined model"). -/
inductive Beat where
  | word (w : CommandWord)
  | call (i : Instr)
deriving DecidableEq, Repr

/-- One thing the host does (70_reset_and_hazards.md R249): a command as one atomic step (R7, level 1); a READ of `ks_out`
(R244); a reset (R240); or one clock cycle at the cycle level (R7, level 2), with the level of `rst`, the beat on the
command port and whether the host samples `ks_out` in that cycle. -/
inductive HostEvent where
  | command (b : Beat)
  | read
  | reset
  | cycle (rst : Bool) (b : Beat) (read : Bool)
deriving DecidableEq, Repr

/-- The host actions and pseudo-instructions of R90. -/
inductive HostForm where
  | wait
  | read
  | genr
  | ks (n : Nat)
  | xorMsg (msg : List Byte)
deriving DecidableEq, Repr

end Sys2Proof
end

