-- ==== Sys2Proof/WellFormed.lean ====
section
/-! DEFINITION. Which instructions a command word can carry. A LOAD whose key or nonce has another length exists at the
transaction level only (30_encoding.md R83), where it is executable: it returns `InvalidKeyMaterial`. -/

namespace Sys2Proof

/-- The port carries a key of exactly 32 bytes (R80, R83). -/
def wellFormedKey (key : List Byte) : Bool := key.length == Config.keyBytes

/-- The port carries a nonce of exactly 12 bytes (R80, R83). -/
def wellFormedNonce (nonce : List Byte) : Bool := nonce.length == Config.nonceBytes

/-- The instruction can be presented as one 386-bit command word. -/
def Instr.wellFormed : Instr → Bool
  | .nop => true
  | .load key nonce _ => wellFormedKey key && wellFormedNonce nonce
  | .gen => true
  | .rsvd => true

end Sys2Proof
end

