-- ==== Sys2Proof/Decode.lean ====
section
/-! DEFINITION. The command encoding (30_encoding.md R80 to R82 and R91): a decoder total on 386-bit words, and an encoder
written from the same fields. -/

namespace Sys2Proof

/-- The code of a command in the field `cmd` (R81). -/
def Command.code : Command → BitVec 2
  | .nop => 0b00
  | .load => 0b01
  | .gen => 0b10
  | .reserved => 0b11

/-- The command that the field `cmd` selects: a total function of its two bits (R81, R82). -/
def commandOfCode (c : BitVec 2) : Command :=
  if c = 0b00 then .nop
  else if c = 0b01 then .load
  else if c = 0b10 then .gen
  else .reserved

/-- Field `cmd`, bits `[1:0]` (R80). -/
def cmdField (w : CommandWord) : BitVec 2 := w.extractLsb' 0 2

/-- Key byte `i`, bits `[8i+9 : 8i+2]` (R80). -/
def keyByte (w : CommandWord) (i : Nat) : Byte := w.extractLsb' (8 * i + 2) 8

/-- Nonce byte `i`, bits `[8i+265 : 8i+258]` (R80). -/
def nonceByte (w : CommandWord) (i : Nat) : Byte := w.extractLsb' (8 * i + 258) 8

/-- Field `ctr_in`, bits `[385:354]` (R80). -/
def ctrField (w : CommandWord) : Word := w.extractLsb' 354 32

/-- The instruction that a command word is. Bits above `[1:0]` are ignored unless the command is LOAD (R80, R82). -/
def decode (w : CommandWord) : Instr :=
  match commandOfCode (cmdField w) with
  | .nop => .nop
  | .load => .load ((List.range 32).map (keyByte w)) ((List.range 12).map (nonceByte w)) (ctrField w)
  | .gen => .gen
  | .reserved => .rsvd

/-- Why a number is no command word. -/
inductive DecodeError where
  /-- A bit above bit 385 is set: every command word is 386 bits (R88). Raised by `decodeNat`; safe. -/
  | widerThanCommandWord
deriving DecidableEq, Repr

/-- The decoder on any number: refuses, by name, one that does not fit the 386-bit port (R88). -/
def decodeNat (w : Nat) : Except DecodeError Instr :=
  if w < 2 ^ 386 then .ok (decode (BitVec.ofNat 386 w)) else .error .widerThanCommandWord

/-- The instruction the decoder reads from a table word of `nbits` bits, every bit above `nbits` being 0. -/
def decodeTableWord (nbits w : Nat) : Option Instr :=
  match decodeNat (w % 2 ^ nbits) with
  | .ok i => some i
  | .error _ => none

/-- A byte sequence as one number, byte `i` in bits `[8i+7 : 8i]`: the port lanes (20_memory.md R65), and `KEYINT` and
`NONCEINT` of R91. -/
def lanes : List Byte → Nat
  | [] => 0
  | b :: bs => b.toNat + 256 * lanes bs

/-- The command word of a well-formed instruction, ignored fields zero (R91): a LOAD is
`1 + 4*KEYINT + 2^258*NONCEINT + 2^354*ctr`. An ill-formed LOAD has no command word; no rule uses this function there. -/
def encode : Instr → CommandWord
  | .nop => 0x0#386
  | .load key nonce ctr =>
      BitVec.ofNat 386 (1 + 4 * lanes key + 2 ^ 258 * lanes nonce + 2 ^ 354 * ctr.toNat)
  | .gen => 0x2#386
  | .rsvd => 0x3#386

/-- The instruction a beat carries: its word decoded, or the command itself. -/
def Beat.instr : Beat → Instr
  | .word w => decode w
  | .call i => i

end Sys2Proof
end

