-- ==== Sys2Proof/Machine/State.lean ====
section
/-! DEFINITION. The state of the block (10_state.md R20), the configuration it is built with, the host's pending events and
what the host has observed; faults and refusals; the state after reset (R39, 70_reset_and_hazards.md R240, R242). -/

namespace Sys2Proof.Machine

/-- The sequencer's phase (R29). The code `11` is unused and never reached, so it is left out of the type. -/
inductive Phase where
  | idle
  | mix
  | final
deriving DecidableEq, Repr

/-- The 2-bit encoding of a phase (R29). -/
def Phase.code : Phase → BitVec 2
  | .idle => 0b00
  | .mix => 0b01
  | .final => 0b10

/-- The faults of 60_exceptions.md R212, each with the info it records. A fault is recorded in `State.faults` and the
machine goes on (R213; 93_implementation_defined.md I19): `step` never stops with one. -/
inductive Fault where
  /-- F_BUSY, code 1: raised by a LOAD or GEN presented while `phase != IDLE`. Safe: the spec's own fault, recorded. -/
  | busy (cmd : Command)
  /-- F_NOT_LOADED, code 2: raised by a GEN presented while `phase = IDLE` and `loaded = 0`. Safe: the spec's own fault. -/
  | notLoaded (cmd : Command)
  /-- F_RESERVED, code 3: raised by a beat with `cmd = 11`. Safe: the spec's own fault. -/
  | reserved (cmd : Command)
  /-- F_READ_INVALID, code 4: raised by a host READ while `ks_valid = 0`. Safe: the spec's own fault. -/
  | readInvalid
deriving DecidableEq, Repr

/-- Why the model has no meaning for an input (60_exceptions.md R210). -/
inductive Refusal where
  /-- An instruction of the opcode table with no meaning yet: raised by no arm of `exec`. Safe: the model stops. -/
  | notModelled (mnemonic : String)
  /-- `QR_at` with a repeated index (40_quarter_round.md R105): raised by `qrAtChecked`, reached by no command. Safe: the
  spec says to refuse it. -/
  | repeatedIndex
deriving DecidableEq, Repr

/-- What a LOAD that was performed or rejected returns to the host (60_exceptions.md R210, R211). -/
inductive LoadResult where
  | ok
  | invalidKeyMaterial
deriving DecidableEq, Repr

/-- The result codes of R211. -/
def LoadResult.code : LoadResult → Nat
  | .ok => 0
  | .invalidKeyMaterial => 1

/-- The state of the machine (R20). `S[0..3]` are hardwired to the configuration and have no storage (R22). -/
structure State where
  /-- `BYTE_ORDER`, `COUNTER_MODE` and `SIGMA`: fixed, written by no step (R6). Log entry 1. -/
  config : Config
  /-- `S[4..11]`, the key words (R23). -/
  key : Vector Word 8
  /-- `S[12]`, the block counter (R24). -/
  counter : Word
  /-- `S[13..15]`, the nonce words (R25). -/
  nonce : Vector Word 3
  /-- `X[0..15]`, the working register (R27). -/
  x : Words
  /-- The round counter, 5 bits (R28). -/
  rnd : BitVec 5
  /-- The sequencer's phase (R29). -/
  phase : Phase
  /-- `OUT[0..63]`, the output register (R30). -/
  out : Block
  /-- `OUT` holds the block of the last completed GEN; the port `ks_valid` (R31). -/
  valid : Bool
  /-- A LOAD has succeeded since reset; the port `st_loaded` (R32). -/
  loaded : Bool
  /-- `blocks_since_load`: GENs completed since the last successful LOAD (R36). -/
  blocksSinceLoad : Nat
  /-- `faults`: the set of faults recorded so far, in strictly rising rank (R37). -/
  faults : List Fault
  /-- The model's own: the source its free values come from. Two machines with different sources have values after reset of
  which nothing relates one to the other (60_exceptions.md R223). Log entry 2. -/
  freeSource : Nat
  /-- The model's own: how often the registers with "no value" were given fresh free values. Log entry 2. -/
  freeDraws : Nat
  /-- The host's events not yet performed, oldest first (R249). Log entry 4. -/
  pending : List HostEvent
  /-- The results of the host's LOADs, oldest first (R211, R249). Log entry 5. -/
  results : List LoadResult
  /-- The blocks the host READ, oldest first (R249). Log entry 5. -/
  blocksRead : List Block
deriving DecidableEq, Repr

namespace State

/-- `S[4..11]` while they have no value (R26). -/
def noValueKey (source draw : Nat) : Vector Word 8 := Vector.ofFn fun i => Config.noValueWord source draw (4 + i)

/-- `S[12]` while it has no value (R26). -/
def noValueCounter (source draw : Nat) : Word := Config.noValueWord source draw 12

/-- `S[13..15]` while they have no value (R26). -/
def noValueNonce (source draw : Nat) : Vector Word 3 := Vector.ofFn fun i => Config.noValueWord source draw (13 + i)

/-- `X[0..15]` while they have no value (R27, R39). -/
def noValueX (source draw : Nat) : Words := Vector.ofFn fun i => Config.noValueWord source draw (16 + i)

/-- `OUT[0..63]` while they have no value (R30, R39). -/
def noValueOut (source draw : Nat) : Block := Vector.ofFn fun i => Config.noValueByte source draw i

/-- Power-on in a configuration: the state after reset with `faults` empty (R39, R242), no event pending, nothing observed.
That the registers with no value hold free values from a source of the machine's own is the model's choice (DESIGN CHOICE,
log entry 2). -/
def powerOn (c : Config) (source : Nat) : State where
  config          := c
  key             := noValueKey source 0
  counter         := noValueCounter source 0
  nonce           := noValueNonce source 0
  x               := noValueX source 0
  rnd             := 0#5
  phase           := .idle
  out             := noValueOut source 0
  valid           := false
  loaded          := false
  blocksSinceLoad := 0
  faults          := []
  freeSource      := source
  freeDraws       := 1
  pending         := []
  results         := []
  blocksRead      := []

/-- The machine right after reset, in the default configuration (R6, R39, R242), with source 0 (DESIGN CHOICE, log entry 2). -/
def reset : State := powerOn Config.default 0

end State
end Sys2Proof.Machine
end

