-- ==== Sys2Proof/Machine/Ops.lean ====
section
/-! DEFINITION. The named operations over the registers: reading and writing `S` (10_state.md R21 to R25), recording a
fault (60_exceptions.md R212, R213: the block has no trap entry and no trap return, R217, R218, so this one operation is
all that a fault does), the reset event (70_reset_and_hazards.md R240) and a host READ (R244). -/

namespace Sys2Proof.Machine

/-- The 16-word layout: constants, key, counter, nonce (R21). -/
def assemble (sigma : Vector Word 4) (key : Vector Word 8) (counter : Word) (nonce : Vector Word 3) : Words :=
  #v[sigma[0], sigma[1], sigma[2], sigma[3],
     key[0], key[1], key[2], key[3], key[4], key[5], key[6], key[7],
     counter, nonce[0], nonce[1], nonce[2]]

/-- `S[0..15]`: the one read of the input state register. `S[0..3]` read as the hardwired `SIGMA` (R22). -/
def State.inputState (s : State) : Words := assemble s.config.sigma s.key s.counter s.nonce

/-- `S[i]` (R11). -/
def State.readS (s : State) (i : Fin 16) : Word := s.inputState[i]

/-- `S[4..15] <- W[4..15]`: the write of the input state register. `W[0..3]` are discarded: `S[0..3]` are hardwired (R22). -/
def State.writeS (s : State) (w : Words) : State :=
  { s with
    key := #v[w[4], w[5], w[6], w[7], w[8], w[9], w[10], w[11]]
    counter := w[12]
    nonce := #v[w[13], w[14], w[15]] }

/-- `(S[12], S[13]) <- (c, n)`: the write of the counter increment (R24, R25, 42_block_generator.md R150, R151). -/
def State.writeCounter (s : State) (c n : Word) : State := { s with counter := c, nonce := s.nonce.set 0 n }

/-- The fault codes of R212. -/
def Fault.code : Fault → Nat
  | .busy _ => 1
  | .notLoaded _ => 2
  | .reserved _ => 3
  | .readInvalid => 4

/-- The order in which the set of faults is listed: by fault code, then by the recorded command. -/
def Fault.rank : Fault → Nat
  | .busy c => 4 + c.code.toNat
  | .notLoaded c => 8 + c.code.toNat
  | .reserved c => 12 + c.code.toNat
  | .readInvalid => 16

/-- Add a fault to the set. -/
def insertFault (f : Fault) : List Fault → List Fault
  | [] => [f]
  | g :: gs =>
      if f.rank < g.rank then f :: g :: gs
      else if f.rank = g.rank then g :: gs
      else g :: insertFault f gs

/-- `fault F(info)`: the fault is added to `faults`, and nothing else changes (R12, R213). -/
def recordFault (f : Fault) (s : State) : State := { s with faults := insertFault f s.faults }

/-- The reset event (R240): the flags and the sequencer take their reset values, `S[4..15]`, `X` and `OUT` take fresh
free values ("no value") from the machine's own source (DESIGN CHOICE, log entry 2), and `faults` is not changed. It also
abandons a GEN in progress (R241). -/
def resetEvent (s : State) : State :=
  { s with
    key := State.noValueKey s.freeSource s.freeDraws
    counter := State.noValueCounter s.freeSource s.freeDraws
    nonce := State.noValueNonce s.freeSource s.freeDraws
    x := State.noValueX s.freeSource s.freeDraws
    rnd := 0#5
    phase := .idle
    out := State.noValueOut s.freeSource s.freeDraws
    valid := false
    loaded := false
    blocksSinceLoad := 0
    freeDraws := s.freeDraws + 1 }

/-- What a READ returns: the block while `ks_valid = 1`, no bytes otherwise (R244). -/
def State.readBlock (s : State) : Option Block := if s.valid then some s.out else none

/-- A host READ (R90, R244): the host takes the block, or the fault F_READ_INVALID is recorded. -/
def hostRead (s : State) : State :=
  match s.readBlock with
  | some b => { s with blocksRead := s.blocksRead ++ [b] }
  | none => recordFault .readInvalid s

/-- Run `f` on the next state of an outcome; a fault or a refusal passes through. -/
def andThen (o : Host.Outcome State Fault Refusal) (f : State → State) : Host.Outcome State Fault Refusal :=
  match o with
  | .next s => .next (f s)
  | .fault r => .fault r
  | .refused r => .refused r

end Sys2Proof.Machine
end

