-- ==== Sys2Proof/Machine/Operands.lean ====
section
/-! DEFINITION. Byte order (20_memory.md R61 to R63), operand assembly (30_encoding.md R84), the state assembly function
(41_state_initializer.md R121) and the serializer (42_block_generator.md R148). -/

namespace Sys2Proof.Machine

/-- Four bytes to a word; `b0` is the byte at the lowest index (R61, as the sums the rule gives). -/
def pack32 (o : ByteOrder) (b0 b1 b2 b3 : Byte) : Word :=
  match o with
  | .le => BitVec.ofNat 32 (b0.toNat + 2 ^ 8 * b1.toNat + 2 ^ 16 * b2.toNat + 2 ^ 24 * b3.toNat)
  | .be => BitVec.ofNat 32 (b3.toNat + 2 ^ 8 * b2.toNat + 2 ^ 16 * b1.toNat + 2 ^ 24 * b0.toNat)

/-- A word to four bytes; byte 0 goes to the lowest index (R62). -/
def unpack32 (o : ByteOrder) (w : Word) : Vector Byte 4 :=
  match o with
  | .le => #v[w.extractLsb' 0 8, w.extractLsb' 8 8, w.extractLsb' 16 8, w.extractLsb' 24 8]
  | .be => #v[w.extractLsb' 24 8, w.extractLsb' 16 8, w.extractLsb' 8 8, w.extractLsb' 0 8]

/-- A byte sequence that has exactly the length `n`, or nothing: the length check of a LOAD operand (R122). -/
def bytesOfLength (n : Nat) (bs : List Byte) : Option (Vector Byte n) :=
  if h : bs.length = n then some ⟨bs.toArray, by simpa using h⟩ else none

/-- The key words `K[0..7]` (R84). -/
def keyWords (o : ByteOrder) (key : Vector Byte 32) : Vector Word 8 :=
  Vector.ofFn fun i : Fin 8 => pack32 o key[4 * i.val] key[4 * i.val + 1] key[4 * i.val + 2] key[4 * i.val + 3]

/-- The nonce words `N[0..2]` (R84). -/
def nonceWords (o : ByteOrder) (nonce : Vector Byte 12) : Vector Word 3 :=
  Vector.ofFn fun j : Fin 3 =>
    pack32 o nonce[4 * j.val] nonce[4 * j.val + 1] nonce[4 * j.val + 2] nonce[4 * j.val + 3]

/-- InitState (R121). The counter is taken unchanged, under either byte order (20_memory.md R64). -/
def initState (c : Config) (key : Vector Byte 32) (nonce : Vector Byte 12) (ctr : Word) : Words :=
  assemble c.sigma (keyWords c.byteOrder key) ctr (nonceWords c.byteOrder nonce)

/-- Serialize (R148): word `j` goes to bytes `4j` to `4j+3`. -/
def serialize (o : ByteOrder) (y : Words) : Block :=
  Vector.ofFn fun k : Fin 64 => (unpack32 o y[k.val / 4])[k.val % 4]

/-- The word that four consecutive bytes of a block give (20_memory.md R66). -/
def blockWord (o : ByteOrder) (b : Block) (j : Fin 16) : Word :=
  pack32 o b[4 * j.val] b[4 * j.val + 1] b[4 * j.val + 2] b[4 * j.val + 3]

end Sys2Proof.Machine
end

