-- ==== Sys2Proof/Machine/Flags.lean ====
section
/-! DEFINITION. The status bits and the output ports (10_state.md R31 to R34, 20_memory.md R65). The block has no condition
codes and no arithmetic flags (R34): `valid` and `loaded` are stored, `busy` is derived. -/

namespace Sys2Proof.Machine

/-- `busy = (phase != IDLE)` (R33). -/
def State.busy (s : State) : Bool := s.phase != .idle

/-- What the host sees of the block (R35). -/
structure Ports where
  /-- `ks_out`: 512 bits. None while `ks_valid = 0`: the spec does not say what the port shows then (R244). -/
  ksOut : Option (BitVec 512)
  ksValid : Bool
  stLoaded : Bool
  stBusy : Bool
deriving DecidableEq, Repr

/-- A block on the lanes of `ks_out`: byte `i` at bits `[8i+7 : 8i]` (R65). -/
def ksOutLanes (b : Block) : BitVec 512 := BitVec.ofNat 512 (lanes b.toList)

/-- The output ports; sampling them changes nothing (R68). -/
def State.ports (s : State) : Ports where
  ksOut := s.readBlock.map ksOutLanes
  ksValid := s.valid
  stLoaded := s.loaded
  stBusy := s.busy

/-- The LOAD, the GEN accept step and the FINAL step write `valid` (R31). -/
def State.setValid (s : State) (v : Bool) : State := { s with valid := v }

/-- A successful LOAD writes `loaded` (R32). -/
def State.setLoaded (s : State) : State := { s with loaded := true }

end Sys2Proof.Machine
end

