-- ==== Sys2Proof/Machine/QuarterRound.lean ====
section
/-! DEFINITION. The quarter-round mixer (40_quarter_round.md R100 to R107). -/

namespace Sys2Proof.Machine

/-- ADD32: the sum modulo 2^32; the carry out of bit 31 is discarded (R100). -/
def add32 (a b : Word) : Word := a + b

/-- `a -32 b`: only the derived inverse uses it (00_scope.md R10, R104). -/
def sub32 (a b : Word) : Word := a - b

/-- XOR32 (R101). -/
def xor32 (a b : Word) : Word := a ^^^ b

/-- ROTL32: left rotation, for amounts up to 32 (R102). -/
def rotl (x : Word) (n : Nat) : Word := (x <<< n) ||| (x >>> (32 - n))

/-- `rotr(x, n)` is `rotl(x, 32 - n)` (00_scope.md R10). -/
def rotr (x : Word) (n : Nat) : Word := rotl x (32 - n)

/-- The four words a quarter-round works on. -/
structure Quad where
  a : Word
  b : Word
  c : Word
  d : Word
deriving DecidableEq, Repr

/-- A mixer stage of the first and third kind: `a <- a +32 b; d <- d ^ a; d <- rotl(d, n)` (R103, R106). -/
def stageAD (n : Nat) (q : Quad) : Quad :=
  let a := add32 q.a q.b
  { q with a := a, d := rotl (xor32 q.d a) n }

/-- A mixer stage of the second and fourth kind: `c <- c +32 d; b <- b ^ c; b <- rotl(b, n)` (R103, R106). -/
def stageCB (n : Nat) (q : Quad) : Quad :=
  let c := add32 q.c q.d
  { q with c := c, b := rotl (xor32 q.b c) n }

/-- QR: the four stages with rotations 16, 12, 8 and 7 (R103). -/
def qr (q : Quad) : Quad := stageCB 7 (stageAD 8 (stageCB 12 (stageAD 16 q)))

/-- The inverse of `stageAD` (R104). -/
def stageADInv (n : Nat) (q : Quad) : Quad :=
  { q with d := xor32 (rotr q.d n) q.a, a := sub32 q.a q.b }

/-- The inverse of `stageCB` (R104). -/
def stageCBInv (n : Nat) (q : Quad) : Quad :=
  { q with b := xor32 (rotr q.b n) q.c, c := sub32 q.c q.d }

/-- QR_inv: for proofs and tests; the hardware has no inverse datapath (R104). -/
def qrInv (q : Quad) : Quad := stageADInv 16 (stageCBInv 12 (stageADInv 8 (stageCBInv 7 q)))

/-- An index tuple of the round operand map (30_encoding.md R85). -/
structure Tuple where
  a : Fin 16
  b : Fin 16
  c : Fin 16
  d : Fin 16
deriving DecidableEq, Repr

/-- The four indices of a tuple. -/
def Tuple.indices (t : Tuple) : List (Fin 16) := [t.a, t.b, t.c, t.d]

/-- The four indices are distinct (R105). -/
def Tuple.distinct (t : Tuple) : Bool := decide t.indices.Nodup

/-- The words of `X` at a tuple. -/
def quadAt (x : Words) (t : Tuple) : Quad := ⟨x[t.a], x[t.b], x[t.c], x[t.d]⟩

/-- Write four words back to a tuple's places. -/
def putQuad (x : Words) (t : Tuple) (q : Quad) : Words :=
  (((x.set t.a q.a).set t.b q.b).set t.c q.c).set t.d q.d

/-- QR_at on a tuple of distinct indices (R105). -/
def qrAt (x : Words) (t : Tuple) : Words := putQuad x t (qr (quadAt x t))

/-- QR_at on any tuple: a repeated index has no meaning and is refused (R105, 60_exceptions.md R210). -/
def qrAtChecked (x : Words) (t : Tuple) : Except Refusal Words :=
  if t.distinct then .ok (qrAt x t) else .error .repeatedIndex

end Sys2Proof.Machine
end

