-- ==== Sys2Proof/Machine/Rounds.lean ====
section
/-! DEFINITION. The round schedule, the feedback adder, the counter increment and the block function
(30_encoding.md R85, 42_block_generator.md R142 to R153). -/

namespace Sys2Proof.Machine

/-- The tuples of a column round (R85, R142). -/
def columnTuples : List Tuple := [⟨0, 4, 8, 12⟩, ⟨1, 5, 9, 13⟩, ⟨2, 6, 10, 14⟩, ⟨3, 7, 11, 15⟩]

/-- The tuples of a diagonal round (R85, R143). -/
def diagonalTuples : List Tuple := [⟨0, 5, 10, 15⟩, ⟨1, 6, 11, 12⟩, ⟨2, 7, 8, 13⟩, ⟨3, 4, 9, 14⟩]

/-- QR_at on each tuple of a list, in order. -/
def qrAll (ts : List Tuple) (x : Words) : Words := ts.foldl qrAt x

/-- ColumnRound (R142). -/
def columnRound (x : Words) : Words := qrAll columnTuples x

/-- DiagonalRound (R143). -/
def diagonalRound (x : Words) : Words := qrAll diagonalTuples x

/-- The round applied when `r` rounds are already done: column when `r` is even, diagonal when odd (R85, R155). -/
def oneRound (r : Nat) (x : Words) : Words := if r % 2 = 0 then columnRound x else diagonalRound x

/-- The first `r` rounds of the schedule. -/
def roundsUpTo : Nat → Words → Words
  | 0, x => x
  | r + 1, x => oneRound r (roundsUpTo r x)

/-- DoubleRound: the column pass, then the diagonal pass (R144). -/
def doubleRound (x : Words) : Words := diagonalRound (columnRound x)

/-- `n` double-rounds. -/
def doubleRounds : Nat → Words → Words
  | 0, x => x
  | n + 1, x => doubleRounds n (doubleRound x)

/-- Rounds20: 10 double-rounds (R145). -/
def rounds20 (x : Words) : Words := doubleRounds (Config.rounds / 2) x

/-- Feedback: the word-by-word sum, with no carry between words (R147). -/
def feedback (x s : Words) : Words := Vector.ofFn fun i : Fin 16 => add32 x[i] s[i]

/-- BlockFn (R153). -/
def blockFn (o : ByteOrder) (s : Words) : Block := serialize o (feedback (rounds20 s) s)

/-- CtrInc: the counter word and word 13 after the increment (R150, R151). No wrap is detected (R152). -/
def ctrInc (m : CounterMode) (c n : Word) : Word × Word :=
  match m with
  | .wrap32 => (add32 c 1#32, n)
  | .carry64 => (add32 c 1#32, if add32 c 1#32 = 0#32 then add32 n 1#32 else n)

/-- The counter increment of a state: `(S[12], S[13]) <- CtrInc(S[12], S[13])` (R140 step 5, R156). -/
def incrementCounter (s : State) : State :=
  let r := ctrInc s.config.counterMode s.counter s.nonce[0]
  s.writeCounter r.1 r.2

end Sys2Proof.Machine
end

