-- ==== Sys2Proof/Machine/Commands.lean ====
section
/-! DEFINITION. The commands without a datapath: NOP (42_block_generator.md R158) and the reserved code (30_encoding.md
R87); and the outcome of a beat (60_exceptions.md R210, R214). -/

namespace Sys2Proof.Machine

/-- NOP: no state is written, in any phase (R158). -/
def execNop (s : State) : Host.Outcome State Fault Refusal := .next s

/-- The reserved code: always the fault F_RESERVED, in any phase, with no other effect (R87). -/
def execRsvd (s : State) : Host.Outcome State Fault Refusal := .next (recordFault (.reserved .reserved) s)

/-- The outcomes of a command (R210). -/
inductive CommandOutcome where
  | ok
  | error (e : LoadResult)
  | fault (f : Fault)
deriving DecidableEq, Repr

/-- The one outcome that a beat reports, in the order of R214: reserved, busy, not loaded, wrong length, ok. -/
def beatOutcome (i : Instr) (s : State) : CommandOutcome :=
  match i with
  | .rsvd => .fault (.reserved .reserved)
  | .nop => .ok
  | .gen =>
      if s.busy then .fault (.busy .gen)
      else if s.loaded then .ok else .fault (.notLoaded .gen)
  | .load key nonce _ =>
      if s.busy then .fault (.busy .load)
      else if key.length = 32 ∧ nonce.length = 12 then .ok else .error .invalidKeyMaterial

end Sys2Proof.Machine
end

