-- ==== Sys2Proof/Machine/Generator.lean ====
section
/-! DEFINITION. The block generator: GEN as one atomic step (42_block_generator.md R140, R159), and the steps of the
reference cycle-level sequencer (R154 to R156). -/

namespace Sys2Proof.Machine

/-- Steps 3 to 5 of a GEN, on the working register as it stands: feedback, serialize, output register, counter, `valid`
(R147 to R151). The feedback reads `S` before the counter increment (70_reset_and_hazards.md R245). -/
def finishBlock (s : State) : State :=
  { (incrementCounter s).setValid true with
    out := serialize s.config.byteOrder (feedback s.x s.inputState)
    blocksSinceLoad := s.blocksSinceLoad + 1 }

/-- GEN at the transaction level (R140): F_BUSY while a GEN is in progress, F_NOT_LOADED before any successful LOAD (R159);
otherwise one block, from the rounds on a copy of `S` (R141). -/
def execGen (s : State) : Host.Outcome State Fault Refusal :=
  if s.busy then .next (recordFault (.busy .gen) s)
  else if s.loaded then .next (finishBlock { s with x := rounds20 s.inputState })
  else .next (recordFault (.notLoaded .gen) s)

/-- The accept step of a GEN, cycle 0 (R154). -/
def acceptStep (s : State) : State := { s.setValid false with x := s.inputState, rnd := 0#5, phase := .mix }

/-- The MIX step, cycles 1 to 20 (R155): all three registers are read before any is written. -/
def mixStep (s : State) : State :=
  { s with
    x := oneRound s.rnd.toNat s.x
    phase := if s.rnd = 19#5 then .final else s.phase
    rnd := s.rnd + 1#5 }

/-- The FINAL step, cycle 21 (R156). -/
def finalStep (s : State) : State := { finishBlock s with rnd := 0#5, phase := .idle }

/-- The sequencer's own step in a clock cycle, whatever the beat (R155, R156, 60_exceptions.md R213). -/
def sequencerStep (s : State) : State :=
  match s.phase with
  | .idle => s
  | .mix => mixStep s
  | .final => finalStep s

end Sys2Proof.Machine
end

