-- ==== Sys2Proof/Machine/Initializer.lean ====
section
/-! DEFINITION. The state initializer: the LOAD command (41_state_initializer.md R120 to R128). -/

namespace Sys2Proof.Machine

/-- A result goes to the host that issued the LOAD; no state of the block changes (60_exceptions.md R211). -/
def returnResult (r : LoadResult) (s : State) : State := { s with results := s.results ++ [r] }

/-- The effect of a successful LOAD: a new cipher instance (R120, R125). `X`, `OUT`, `rnd` and `phase` keep their values
(R126). -/
def loadInstance (w : Words) (s : State) : State :=
  { ((s.writeS w).setLoaded.setValid false) with blocksSinceLoad := 0 }

/-- LOAD (R120): F_BUSY while a GEN is in progress (R124); `InvalidKeyMaterial` when a length is wrong, which changes no
state (R122, R123); otherwise the input state is built. -/
def execLoad (key nonce : List Byte) (ctr : Word) (s : State) : Host.Outcome State Fault Refusal :=
  if s.busy then .next (recordFault (.busy .load) s)
  else
    match bytesOfLength 32 key, bytesOfLength 12 nonce with
    | some k, some n => .next (returnResult .ok (loadInstance (initState s.config k n ctr) s))
    | _, _ => .next (returnResult .invalidKeyMaterial s)

end Sys2Proof.Machine
end

