-- ==== Sys2Proof/Machine/Dispatch.lean ====
section
/-! DEFINITION. The one match that gives each command its meaning, as one atomic step (00_scope.md R7, level 1). -/

namespace Sys2Proof.Machine

def exec (i : Instr) (s : State) : Host.Outcome State Fault Refusal :=
  match i with
  | .nop => Sys2Proof.Machine.execNop s
  | .load key nonce ctr => Sys2Proof.Machine.execLoad key nonce ctr s
  | .gen => Sys2Proof.Machine.execGen s
  | .rsvd => Sys2Proof.Machine.execRsvd s

end Sys2Proof.Machine
end

