-- ==== Sys2Proof/Machine/Cycle.lean ====
section
/-! DEFINITION. What one host event does: a command as one atomic step, or one clock cycle of the reference sequencer
(00_scope.md R7; 42_block_generator.md R154 to R162; 60_exceptions.md R213 to R215). -/

namespace Sys2Proof.Machine

/-- A beat in an IDLE cycle: a GEN is accepted if an instance is loaded and does its first step only (R154); every other
beat does what it does at the transaction level in one cycle (R120, R158, R159). -/
def idleCycle (i : Instr) (s : State) : Host.Outcome State Fault Refusal :=
  match i with
  | .gen => if s.loaded then .next (acceptStep s) else exec .gen s
  | .nop => exec .nop s
  | .load key nonce ctr => exec (.load key nonce ctr) s
  | .rsvd => exec .rsvd s

/-- A beat in a cycle in which a GEN is in progress: the beat changes nothing but `faults` (R214), and the sequencer does
its own step all the same (R155, R156, R213). -/
def busyCycle (i : Instr) (s : State) : Host.Outcome State Fault Refusal := andThen (exec i s) sequencerStep

/-- One clock cycle. A READ samples the outputs as they are during the cycle (R215c). Reset wins over the beat (R215a). -/
def clockCycle (rst : Bool) (b : Beat) (read : Bool) (s : State) : Host.Outcome State Fault Refusal :=
  let s' := if read then hostRead s else s
  if rst then .next (resetEvent s')
  else if s.busy then busyCycle b.instr s'
  else idleCycle b.instr s'

/-- A clock cycle in which the host does nothing: the port shows NOP, "no command this cycle" (30_encoding.md R81). -/
def quietCycle (s : State) : Host.Outcome State Fault Refusal := clockCycle false (.call .nop) false s

/-- What one host event does to the machine. -/
def present (e : HostEvent) (s : State) : Host.Outcome State Fault Refusal :=
  match e with
  | .command b => exec b.instr s
  | .read => .next (hostRead s)
  | .reset => .next (resetEvent s)
  | .cycle rst b read => clockCycle rst b read s

/-- The event that presents a table word of `nbits` bits as one command (bits above `nbits` are 0). -/
def commandOfTableWord (nbits w : Nat) : HostEvent := .command (.word (BitVec.ofNat 386 (w % 2 ^ nbits)))

end Sys2Proof.Machine
end

