-- ==== Sys2Proof/Machine/Step.lean ====
section
/-! DEFINITION. One step: the oldest pending host event; with none pending, a clock cycle in which the port shows NOP. -/

namespace Sys2Proof.Machine

/-- One step of the machine (00_scope.md R8; 20_memory.md R69: events are performed one at a time, in order). -/
def step (s : State) : Host.Outcome State Fault Refusal :=
  match s.pending with
  | [] => quietCycle s
  | e :: rest => present e { s with pending := rest }

/-- The state in which the given table word is the host's next command. -/
def State.withFetchWord (s : State) (nbits w : Nat) : State :=
  { s with pending := commandOfTableWord nbits w :: s.pending }

end Sys2Proof.Machine
end

