-- ==== Sys2Proof/Machine/Instances.lean ====
section
/-! DEFINITION. Several instances of the block (60_exceptions.md R223): a list of machines that share no state. -/

namespace Sys2Proof.Machine

/-- A system at power-on: one instance for each configuration, each with its own source of free values, so that nothing
relates the registers with no value of two instances. That a system is a list is DESIGN CHOICE, log entry 15; the sources are
log entry 2. -/
def powerOnSystem (cs : List Config) : List State := cs.mapIdx fun k c => State.powerOn c k

/-- A step of instance `k` of a system, if there is one and its step goes on. -/
def stepInstance (k : Nat) (sys : List State) : List State :=
  match sys[k]? with
  | none => sys
  | some s =>
      match step s with
      | .next t => sys.set k t
      | .fault _ => sys
      | .refused _ => sys

end Sys2Proof.Machine
end

