-- ==== Sys2Proof/Machine/Stream.lean ====
section
/-! DEFINITION. The host side: the pseudo-instructions (30_encoding.md R90) and the reference XOR of a message
(43_stream_cipher_host.md R190). It adds no state to the block. -/

namespace Sys2Proof.Machine

/-- `ceil(n / 64)`: the blocks a message of `n` bytes uses (R190, R191). -/
def blocksFor (n : Nat) : Nat := (n + 63) / 64

/-- A LOAD as a host event at the transaction level. -/
def loadCommand (key nonce : List Byte) (ctr : Word) : HostEvent := .command (.call (.load key nonce ctr))

/-- A GEN as a host event at the transaction level. -/
def genCommand : HostEvent := .command (.call .gen)

/-- The expansion of a host form at the transaction level, where WAIT presents no beat (R90). -/
def expand : HostForm → List HostEvent
  | .wait => []
  | .read => [.read]
  | .genr => [genCommand, .read]
  | .ks n => (List.replicate n [genCommand, .read]).flatten
  | .xorMsg msg => (List.replicate (blocksFor msg.length) [genCommand, .read]).flatten

/-- A NOP beat at the cycle level. -/
def nopCycle : HostEvent := .cycle false (.call .nop) false

/-- The clock cycles until `st_busy = 0` (R155, R156). -/
def State.busyCycles (s : State) : Nat :=
  match s.phase with
  | .idle => 0
  | .mix => 21 - s.rnd.toNat
  | .final => 1

/-- The expansion of WAIT at the cycle level: NOP beats until `st_busy = 0` (R90). -/
def waitEvents (s : State) : List HostEvent := List.replicate s.busyCycles nopCycle

/-- The expansion of GENR at the cycle level, for a GEN that is accepted: the GEN beat, NOP beats until `st_busy = 0`, and
the READ (R90, R162). -/
def genrCycles : List HostEvent :=
  .cycle false (.call .gen) false :: List.replicate (Config.genLatency - 1) nopCycle ++ [.read]

/-- GENR: produce one block and read it. A GEN that faults gives no block (R190: "a GEN fault propagates"). -/
def genr (s : State) : Option Block × State :=
  match exec .gen s with
  | .next t => if beatOutcome .gen s = .ok then (t.readBlock, hostRead t) else (none, t)
  | .fault _ => (none, s)
  | .refused _ => (none, s)

/-- XOR a message with a block's bytes, as far as the message goes (R190, R192). -/
def xorBytes (msg : List Byte) (ks : Block) : List Byte := List.zipWith (· ^^^ ·) msg ks.toList

/-- The loop of XorStream: `m` blocks, 64 bytes of the message each. None when a GEN faults. -/
def xorBlocks : Nat → List Byte → State → Option (List Byte) × State
  | 0, _, s => (some [], s)
  | m + 1, msg, s =>
      match genr s with
      | (none, t) => (none, t)
      | (some ks, t) =>
          match xorBlocks m (msg.drop 64) t with
          | (none, u) => (none, u)
          | (some c, u) => (some (xorBytes (msg.take 64) ks ++ c), u)

/-- XorStream, the Encrypt/Decrypt call (R190). -/
def xorStream (msg : List Byte) (s : State) : Option (List Byte) × State := xorBlocks (blocksFor msg.length) msg s

end Sys2Proof.Machine
end

