-- ==== Sys2Proof/Machine/Text.lean ====
section
/-! DEFINITION. The textual syntax of programs, one line at a time (30_encoding.md R89, and the forms of R90 whose text is
given there). A line is a list of characters. -/

namespace Sys2Proof.Machine

/-- Why a line is no program text. Each is raised by `parseLine` only; safe. -/
inductive TextError where
  /-- The line begins with no word of R89 or R90, or has too few or too many operands. -/
  | notACommand
  /-- An operand is not an even number of hex digits after its `key=` or `nonce=`. -/
  | badBytes
  /-- An operand is not a number of the size asked for. -/
  | badNumber
deriving DecidableEq, Repr

/-- What a line means: a command, or a host form. -/
inductive SourceLine where
  | command (i : Instr)
  | form (f : HostForm)
deriving DecidableEq, Repr

/-- The value of a hex digit. -/
def hexDigit (c : Char) : Option Nat :=
  let n := c.toNat
  if 48 ≤ n ∧ n ≤ 57 then some (n - 48)
  else if 97 ≤ n ∧ n ≤ 102 then some (n - 87)
  else if 65 ≤ n ∧ n ≤ 70 then some (n - 55)
  else none

/-- Pairs of hex digits as bytes, byte 0 first (R89). -/
def hexBytes : List Char → Option (List Byte)
  | [] => some []
  | [_] => none
  | h :: l :: rest =>
      match hexDigit h, hexDigit l, hexBytes rest with
      | some x, some y, some bs => some (BitVec.ofNat 8 (16 * x + y) :: bs)
      | _, _, _ => none

/-- Digits in a base, most significant first, after the value read so far. -/
def digitsIn (base : Nat) : List Char → Nat → Option Nat
  | [], acc => some acc
  | c :: cs, acc =>
      match hexDigit c with
      | some d => if d < base then digitsIn base cs (base * acc + d) else none
      | none => none

/-- A number: `0x` and hex digits, or decimal digits (R89). -/
def numberOf : List Char → Option Nat
  | '0' :: 'x' :: c :: cs => digitsIn 16 (c :: cs) 0
  | c :: cs => digitsIn 10 (c :: cs) 0
  | [] => none

/-- A u32 (R89). -/
def u32Of (cs : List Char) : Option Word :=
  match numberOf cs with
  | some n => if n < 2 ^ 32 then some (BitVec.ofNat 32 n) else none
  | none => none

/-- What follows a given beginning of a field. -/
def afterPrefix : List Char → List Char → Option (List Char)
  | [], cs => some cs
  | _ :: _, [] => none
  | p :: ps, c :: cs => if p = c then afterPrefix ps cs else none

/-- The fields of a line: what stands between spaces, up to a `;`, which begins a comment. -/
def fieldsOf : List Char → List Char → List (List Char)
  | [], [] => []
  | [], c :: cur => [(c :: cur).reverse]
  | c :: cs, cur =>
      if c = ';' then (if cur = [] then [] else [cur.reverse])
      else if c = ' ' then (if cur = [] then fieldsOf cs [] else cur.reverse :: fieldsOf cs [])
      else fieldsOf cs (c :: cur)

/-- A byte-sequence operand with its name, such as `key=0001`. -/
def bytesOperand (name field : List Char) : Except TextError (List Byte) :=
  match afterPrefix name field with
  | none => .error .notACommand
  | some cs =>
      match hexBytes cs with
      | some bs => .ok bs
      | none => .error .badBytes

/-- The operand `ctr=`; when it is absent, `ctr` is 0 (R83, R89). -/
def ctrOperand : List (List Char) → Except TextError Word
  | [] => .ok Config.defaultCtr
  | [field] =>
      match afterPrefix ['c', 't', 'r', '='] field with
      | none => .error .notACommand
      | some cs =>
          match u32Of cs with
          | some w => .ok w
          | none => .error .badNumber
  | _ :: _ :: _ => .error .notACommand

/-- `LOAD key=... nonce=... [ctr=...]`. -/
def parseLoad (key nonce : List Char) (rest : List (List Char)) : Except TextError Instr :=
  match bytesOperand ['k', 'e', 'y', '='] key, bytesOperand ['n', 'o', 'n', 'c', 'e', '='] nonce, ctrOperand rest with
  | .ok k, .ok n, .ok c => .ok (.load k n c)
  | .error e, _, _ => .error e
  | .ok _, .error e, _ => .error e
  | .ok _, .ok _, .error e => .error e

/-- One line of program text (R89, R90). None is a line with no command, such as a comment. -/
def parseLine (line : List Char) : Except TextError (Option SourceLine) :=
  match fieldsOf line [] with
  | [] => .ok none
  | [w] =>
      if w = ['N', 'O', 'P'] then .ok (some (.command .nop))
      else if w = ['G', 'E', 'N'] then .ok (some (.command .gen))
      else if w = ['R', 'S', 'V', 'D'] then .ok (some (.command .rsvd))
      else if w = ['W', 'A', 'I', 'T'] then .ok (some (.form .wait))
      else if w = ['R', 'E', 'A', 'D'] then .ok (some (.form .read))
      else if w = ['G', 'E', 'N', 'R'] then .ok (some (.form .genr))
      else .error .notACommand
  | [w, a] =>
      if w = ['K', 'S'] then
        match numberOf a with
        | some n => .ok (some (.form (.ks n)))
        | none => .error .badNumber
      else .error .notACommand
  | w :: key :: nonce :: rest =>
      if w = ['L', 'O', 'A', 'D'] then
        match parseLoad key nonce rest with
        | .ok i => .ok (some (.command i))
        | .error e => .error e
      else .error .notACommand

/-- The events of a line at the transaction level (R90). -/
def SourceLine.events : SourceLine → List HostEvent
  | .command i => [.command (.call i)]
  | .form f => expand f

end Sys2Proof.Machine
end

