-- ==== Sys2Proof/Safety.lean ====
section
/-! DEFINITION. Runs, their ends and observations (70_reset_and_hazards.md R249), the host's no-reuse premise
(43_stream_cipher_host.md R196), and the invariant that every reachable state meets. -/

namespace Sys2Proof.Machine

/-- `n` steps, stopping at the first fault or refusal. -/
def run : Nat → State → Host.Outcome State Fault Refusal
  | 0, s => .next s
  | n + 1, s =>
      match step s with
      | .next t => run n t
      | .fault r => .fault r
      | .refused r => .refused r

/-- Perform a list of host events, one a step. -/
def runEvents (es : List HostEvent) (s : State) : Host.Outcome State Fault Refusal :=
  run es.length { s with pending := es }

/-- The event resets the machine (R240). -/
def resets : HostEvent → Bool
  | .command _ => false
  | .read => false
  | .reset => true
  | .cycle rst _ _ => rst

/-- The instruction that an event presents on the command port, if it presents one that is not ignored (R240). -/
def presented : HostEvent → Option Instr
  | .command b => some b.instr
  | .read => none
  | .reset => none
  | .cycle rst b _ => if rst then none else some b.instr

/-- The event that the next step performs: the oldest pending one, or the quiet cycle. -/
def State.nextEvent (s : State) : HostEvent := s.pending.headD nopCycle

/-- The next step performs a successful LOAD: one presented in phase IDLE, with a key of 32 and a nonce of 12 bytes
(41_state_initializer.md R120, R122). -/
def State.loadsInstance (s : State) : Prop :=
  s.phase = .idle ∧ ∃ key nonce ctr, presented s.nextEvent = some (.load key nonce ctr) ∧
    key.length = 32 ∧ nonce.length = 12

/-- The run is over: every event is performed and no GEN is in progress (R249). -/
def runEnded (s : State) : Prop := s.pending = [] ∧ s.phase = .idle

/-- The run ended successfully: it is over and no fault is recorded (R249). -/
def successfulEnd (s : State) : Prop := runEnded s ∧ s.faults = []

/-- The observation of a run (R249). The final words of `S[4..15]` are there only while an instance is loaded: before that
they have no value (10_state.md R26). -/
structure Observation where
  blocks : List Block
  results : List LoadResult
  words : Option Words
  valid : Bool
  loaded : Bool
deriving DecidableEq, Repr

/-- What is observed of the run that led to a state (R249). -/
def observe (s : State) : Observation where
  blocks := s.blocksRead
  results := s.results
  words := if s.loaded then some s.inputState else none
  valid := s.valid
  loaded := s.loaded

/-- How many blocks one cipher instance gives before a counter value repeats (42_block_generator.md R160, R161). -/
def counterPeriod : CounterMode → Nat
  | .wrap32 => 2 ^ 32
  | .carry64 => 2 ^ 64

/-- The host's duty of R196 within one LOAD, the premise of claims that need distinct counters. -/
def noCounterReuse (s : State) : Prop := s.blocksSinceLoad ≤ counterPeriod s.config.counterMode

/-- The input states of the blocks completed in `n` steps, oldest first: `S` as it stood when the step that completed the
block began, which is the snapshot of its GEN (42_block_generator.md R141). -/
def blockInputs : Nat → State → List Words
  | 0, _ => []
  | n + 1, s =>
      match step s with
      | .next t =>
          if t.blocksSinceLoad = s.blocksSinceLoad + 1 then s.inputState :: blockInputs n t else blockInputs n t
      | .fault _ => []
      | .refused _ => []

/-- The host's whole duty of R196, across its LOADs and across the instances it owns, each given with its number of steps: no
two blocks of the runs come from one key, nonce and counter. `S[4..15]` holds the three, and different ones give different
words (R128), so this says that no input state is used twice. That words 12 and 13 together are the counter under `CARRY64`
is DEDUCED from R161, log entry 16. -/
def noReuse (runs : List (Nat × State)) : Prop := (runs.flatMap fun r => blockInputs r.1 r.2).Nodup

/-- The counter as the configuration counts blocks: `S[12]`, or `{S[13], S[12]}` (R150, R151). -/
def counterValue (m : CounterMode) (c n : Word) : Nat :=
  match m with
  | .wrap32 => c.toNat
  | .carry64 => 2 ^ 32 * n.toNat + c.toNat

/-- The counter value the next block uses. -/
def State.counterValue (s : State) : Nat := Machine.counterValue s.config.counterMode s.counter s.nonce[0]

/-- The input state that the last completed GEN started from: the counter increment undone (R150, R151). -/
def State.previousInput (s : State) : Words :=
  match s.config.counterMode with
  | .wrap32 => s.inputState.set 12 (sub32 s.counter 1#32)
  | .carry64 =>
      (s.inputState.set 12 (sub32 s.counter 1#32)).set 13 (if s.counter = 0#32 then sub32 s.nonce[0] 1#32 else s.nonce[0])

/-- The faults are a set, listed in strictly rising rank (10_state.md R37). -/
def faultsCanonical (fs : List Fault) : Prop := fs.Pairwise (fun f g => f.rank < g.rank)

/-- What holds of every state a run reaches, at both levels. -/
structure Inv (s : State) : Prop where
  /-- `faults` is a set (R37). -/
  faults : faultsCanonical s.faults
  /-- No round is counted while no GEN is in progress (R28, R156). -/
  idle : s.phase = .idle → s.rnd = 0#5
  /-- Mid-GEN, `rnd` is at most 19 and `X` holds that many rounds of `S` (R28, R141, R155). -/
  mix : s.phase = .mix → s.rnd.toNat < 20 ∧ s.x = roundsUpTo s.rnd.toNat s.inputState
  /-- Before the FINAL step, `rnd` is 20 and `X` holds the 20 rounds of `S` (R155, R145). -/
  final : s.phase = .final → s.rnd = 20#5 ∧ s.x = rounds20 s.inputState
  /-- A GEN in progress needs an instance, and clears `valid` (R154, R159). -/
  busy : s.phase ≠ .idle → s.loaded = true ∧ s.valid = false
  /-- While `valid = 1`, a GEN has completed since the LOAD, and `OUT` holds its block (R31). -/
  valid : s.valid = true →
    s.loaded = true ∧ 0 < s.blocksSinceLoad ∧ s.out = blockFn s.config.byteOrder s.previousInput
  /-- Without an instance no block was completed (R36). -/
  unloaded : s.loaded = false → s.blocksSinceLoad = 0

end Sys2Proof.Machine
end

