-- ==== Sys2Proof/Certificates/Slice0/Obligations.lean ====
section
/-! DEFINITION. The statements for the provers, from the numbered rules of spec/. Where a statement rests on a choice of the
model, its docstring says so and names the log entry. -/

open Sys2Proof Sys2Proof.Machine

/-! ### Reset and configuration -/

/-- 10_state.md section 9 (R39) and 70_reset_and_hazards.md section 1 (R242): what power-on leaves, in every configuration
and whatever the source of free values (log entry 2). `State.reset` is power-on in the default configuration (00_scope.md R5,
R6). -/
def Obligations.PowerOnLeavesTheResetValues : Prop :=
  (∀ (c : Config) (source : Nat), ∃ s : State, s = State.powerOn c source ∧
    s.rnd = 0#5 ∧ s.phase = .idle ∧ s.valid = false ∧ s.loaded = false ∧ s.blocksSinceLoad = 0 ∧ s.faults = [] ∧
    s.config = c ∧ ∀ i : Fin 4, s.inputState[i.val] = c.sigma[i]) ∧
  State.reset = State.powerOn Config.default 0 ∧
  Config.default.byteOrder = .le ∧ Config.default.counterMode = .wrap32

/-- 70_reset_and_hazards.md section 1 (R240): the reset event, as a step of its own and as a clock cycle with `rst = 1`,
where the beat is ignored. That the registers with "no value" take fresh free values is the model's form of it (log entry 2). -/
def Obligations.ResetEventGivesTheResetValues : Prop :=
  ∀ (s : State) (rest : List HostEvent) (e : HostEvent),
    (e = .reset ∨ ∃ b, e = .cycle true b false) → s.pending = e :: rest →
    step s = .next { s with
      key := State.noValueKey s.freeSource s.freeDraws, counter := State.noValueCounter s.freeSource s.freeDraws,
      nonce := State.noValueNonce s.freeSource s.freeDraws, x := State.noValueX s.freeSource s.freeDraws, rnd := 0#5,
      phase := .idle, out := State.noValueOut s.freeSource s.freeDraws, valid := false, loaded := false,
      blocksSinceLoad := 0, freeDraws := s.freeDraws + 1, pending := rest }

/-- R241: a reset in a cycle with a GEN in progress abandons the GEN, whatever the beat: the state is the one the reset event
leaves, so no block is completed, and a GEN then faults F_NOT_LOADED (95_test_vectors.md V-RST-1). -/
def Obligations.ResetAbandonsAGenInProgress : Prop :=
  ∀ (s : State) (rest : List HostEvent) (b : Beat),
    s.busy = true → s.pending = .cycle true b false :: rest →
    ∃ t, step s = .next t ∧ t = resetEvent { s with pending := rest } ∧ t.busy = false ∧ t.faults = s.faults ∧
      t.blocksSinceLoad = 0 ∧ t.readBlock = none ∧ exec .gen t = .next (recordFault (.notLoaded .gen) t)

/-- 00_scope.md section 3 (R6): no command, READ, reset or cycle changes the configuration. -/
def Obligations.ConfigurationNeverChanges : Prop :=
  ∀ s t : State, step s = .next t → t.config = s.config

/-- R22: `S[0..3]` are hardwired to `SIGMA` in every state, a write of `S` does not change them, no step changes them, and the
default values are the ASCII bytes of "expand 32-byte k" read four at a time, least-significant byte first. -/
def Obligations.ConstantWordsAreHardwired : Prop :=
  (∀ (s : State) (i : Fin 4), s.inputState[i.val] = s.config.sigma[i]) ∧
  (∀ (s : State) (w : Words) (i : Fin 4), (s.writeS w).inputState[i.val] = s.config.sigma[i]) ∧
  (∀ (s t : State) (i : Fin 4), step s = .next t → t.inputState[i.val] = s.inputState[i.val]) ∧
  Config.default.sigma = #v[0x61707865, 0x3320646e, 0x79622d32, 0x6b206574] ∧
  Config.default.sigma = #v[pack32 .le 0x65 0x78 0x70 0x61, pack32 .le 0x6e 0x64 0x20 0x33,
    pack32 .le 0x32 0x2d 0x62 0x79, pack32 .le 0x74 0x65 0x20 0x6b]

/-! ### Encoding -/

/-- 30_encoding.md sections 1 and 2 (R80, R81, R84): decoding the command word of any instruction a word can carry gives it
back, with every operand at every value. -/
def Obligations.DecodeOfEncodeIsTheInstruction : Prop :=
  ∀ i : Instr, i.wellFormed = true → decode (encode i) = i

/-- 30_encoding.md sections 1 and 2 (R80, R83): every word decodes to an instruction a word can carry; a LOAD word is the encoding
of its instruction, bit for bit; of the other words only `cmd` counts. -/
def Obligations.EncodeOfDecodeKeepsEveryUsedBit : Prop :=
  ∀ w : CommandWord, (decode w).wellFormed = true ∧
    (cmdField w = 0b01 → encode (decode w) = w) ∧
    (cmdField w ≠ 0b01 → encode (decode w) = BitVec.setWidth 386 (cmdField w))

/-- R82: decoding is a total function of `cmd[1:0]`, and a LOAD then reads the three operand fields. -/
def Obligations.DecodingIsAFunctionOfTheCmdField : Prop :=
  ∀ w : CommandWord,
    (w.extractLsb' 0 2 = 0b00#2 → decode w = .nop) ∧
    (w.extractLsb' 0 2 = 0b01#2 → ∃ key nonce, decode w = .load key nonce (w.extractLsb' 354 32) ∧
      key.length = 32 ∧ nonce.length = 12 ∧
      (∀ i < 32, key[i]? = some ((w.extractLsb' 2 256).extractLsb' (8 * i) 8)) ∧
      (∀ i < 12, nonce[i]? = some ((w.extractLsb' 258 96).extractLsb' (8 * i) 8))) ∧
    (w.extractLsb' 0 2 = 0b10#2 → decode w = .gen) ∧
    (w.extractLsb' 0 2 = 0b11#2 → decode w = .rsvd) ∧
    (∀ w' : CommandWord, w'.extractLsb' 0 2 = w.extractLsb' 0 2 → (decode w').command = (decode w).command)

/-- R91: the command words as numbers, `KEYINT` and `NONCEINT` written as the sums of the rule. -/
def Obligations.CommandWordsAreTheSumsOfTheirFields : Prop :=
  (∀ (key : Vector Byte 32) (nonce : Vector Byte 12) (ctr : Word),
    (encode (.load key.toList nonce.toList ctr)).toNat =
      1 + 4 * (∑ i : Fin 32, key[i].toNat * 2 ^ (8 * i.val)) +
        2 ^ 258 * (∑ i : Fin 12, nonce[i].toNat * 2 ^ (8 * i.val)) + 2 ^ 354 * ctr.toNat) ∧
  encode .nop = 0x0#386 ∧ encode .gen = 0x2#386 ∧ encode .rsvd = 0x3#386 ∧
  encode (.load (List.replicate 32 0) (List.replicate 12 0) 0) = 0x1#386 ∧
  (encode (.load (List.replicate 32 0) (List.replicate 12 0) 1)).toNat = 1 + 2 ^ 354

/-- 95_test_vectors.md section 7 (V-DEC-1 to V-DEC-5, V-ENC-1 to V-ENC-3): words written out from the encoding decode to
what they stand for. -/
def Obligations.WrittenOutWordsDecode : Prop :=
  decode 0x0#386 = .nop ∧ decode 0x2#386 = .gen ∧ decode 0x3#386 = .rsvd ∧
  decode 0x4#386 = .nop ∧ decode 0x6#386 = .gen ∧ decode 0x7#386 = .rsvd ∧
  decode 0x5#386 = .load (0x01 :: List.replicate 31 0x00) (List.replicate 12 0x00) 0 ∧
  decode (BitVec.ofNat 386 (1 + 2 ^ 385)) = .load (List.replicate 32 0x00) (List.replicate 12 0x00) 0x80000000

/-- R65: the bit lanes of the four ports, independent of the byte order. -/
def Obligations.PortLanesCarryBytesInIndexOrder : Prop :=
  (∀ (w : CommandWord) (i : Nat), i < 32 → keyByte w i = (w.extractLsb' 2 256).extractLsb' (8 * i) 8) ∧
  (∀ (w : CommandWord) (i : Nat), i < 12 → nonceByte w i = (w.extractLsb' 258 96).extractLsb' (8 * i) 8) ∧
  (∀ w : CommandWord, ctrField w = w.extractLsb' 354 32) ∧
  (∀ s : State, s.valid = true →
    ∃ ks : BitVec 512, s.ports.ksOut = some ks ∧ ∀ i : Fin 64, ks.extractLsb' (8 * i.val) 8 = s.out[i])

/-- 30_encoding.md section 4 (R89): lines of program text stand for the commands they name; an absent `ctr` is 0
(95_test_vectors.md V-LOAD-3, V-LOAD-4). -/
def Obligations.TextLinesStandForTheirCommands : Prop :=
  parseLine "NOP".toList = .ok (some (.command .nop)) ∧
  parseLine "GEN   ; produce a block".toList = .ok (some (.command .gen)) ∧
  parseLine "RSVD".toList = .ok (some (.command .rsvd)) ∧
  parseLine "; a comment".toList = .ok none ∧
  parseLine "LOAD key= nonce=000000000000000000000000".toList = .ok (some (.command (.load [] (List.replicate 12 0) 0))) ∧
  parseLine "LOAD key=0001ff nonce=4a ctr=0xffffffff".toList =
    .ok (some (.command (.load [0x00, 0x01, 0xff] [0x4a] 0xffffffff)))

/-! ### The step -/

/-- 20_memory.md section 5 (R69), 00_scope.md section 4 (R7, R8): a step performs the oldest pending event, and a command
word runs as the instruction it decodes to. That a step with nothing pending is a cycle with a NOP beat is the model's choice
(log entry 4). -/
def Obligations.StepRunsTheOldestEvent : Prop :=
  ∀ (s : State) (rest : List HostEvent),
    (∀ w : CommandWord, s.pending = .command (.word w) :: rest → step s = exec (decode w) { s with pending := rest }) ∧
    (∀ i : Instr, s.pending = .command (.call i) :: rest → step s = exec i { s with pending := rest }) ∧
    (s.pending = .read :: rest → step s = .next (hostRead { s with pending := rest })) ∧
    (s.pending = .reset :: rest → step s = .next (resetEvent { s with pending := rest })) ∧
    (∀ rst b read, s.pending = .cycle rst b read :: rest → step s = clockCycle rst b read { s with pending := rest }) ∧
    (s.pending = [] → step s = clockCycle false (.word 0) false s) ∧
    (∀ (nbits w : Nat) (i : Instr), decodeTableWord nbits w = some i → step (s.withFetchWord nbits w) = exec i s)

/-- 93_implementation_defined.md section 1 (I19): no behaviour is stuck. Every step of every state gives a next state. -/
def Obligations.EveryStepGoesOn : Prop :=
  ∀ s : State, ∃ t, step s = .next t

/-- R214: one beat reports one outcome, in the stated order, and the outcome is all that a faulting or failing command does
(a LOAD's result goes to the host's list of results, of which this says nothing). -/
def Obligations.OneOutcomeInPriorityOrder : Prop :=
  ∀ s : State,
    beatOutcome .rsvd s = .fault (.reserved .reserved) ∧
    (s.busy = true → beatOutcome .gen s = .fault (.busy .gen)) ∧
    (s.busy = true → ∀ key nonce ctr, beatOutcome (.load key nonce ctr) s = .fault (.busy .load)) ∧
    (s.busy = false → s.loaded = false → beatOutcome .gen s = .fault (.notLoaded .gen)) ∧
    (s.busy = false → ∀ key nonce ctr, ¬(key.length = 32 ∧ nonce.length = 12) →
      beatOutcome (.load key nonce ctr) s = .error .invalidKeyMaterial) ∧
    (beatOutcome .nop s = .ok ∧ (s.busy = false → s.loaded = true → beatOutcome .gen s = .ok) ∧
      (s.busy = false → ∀ key nonce ctr, key.length = 32 → nonce.length = 12 →
        beatOutcome (.load key nonce ctr) s = .ok)) ∧
    (∀ i, beatOutcome i s = .ok → ∃ t, exec i s = .next t ∧ t.faults = s.faults) ∧
    (∀ i f, beatOutcome i s = .fault f → exec i s = .next (recordFault f s)) ∧
    (∀ i e, beatOutcome i s = .error e → ∃ rs, exec i s = .next { s with results := rs })

/-! ### NOP and the reserved code -/

/-- R158: NOP writes no state in any phase, and does not stop or delay the sequencer; word `0x0` is NOP. -/
def Obligations.NopWritesNoState : Prop :=
  decode 0x0#386 = .nop ∧
  (∀ s : State, exec .nop s = .next s) ∧
  (∀ s : State, clockCycle false (.word 0x0#386) false s = .next (sequencerStep s))

/-- R87: the reserved code records F_RESERVED and nothing else, in any phase; a GEN in progress goes on. -/
def Obligations.ReservedCodeOnlyRecordsItsFault : Prop :=
  (∀ s : State, ∃ fs, exec .rsvd s = .next { s with faults := fs } ∧
    ∀ f, f ∈ fs ↔ f = .reserved .reserved ∨ f ∈ s.faults) ∧
  (∀ (s : State) (b : Beat), b.instr = .rsvd → ∃ fs,
    clockCycle false b false s = .next { sequencerStep s with faults := fs } ∧
    ∀ f, f ∈ fs ↔ f = .reserved .reserved ∨ f ∈ s.faults) ∧
  exec (decode 0x3#386) State.reset = .next { State.reset with faults := [.reserved .reserved] }

/-! ### The word operations and the quarter-round -/

/-- R100, R101: the adder is the sum modulo 2^32, and the exclusive or is bitwise. -/
def Obligations.AdderAndXorAreWordwise : Prop :=
  (∀ a b : Word, (add32 a b).toNat = (a.toNat + b.toNat) % 2 ^ 32) ∧
  (∀ a b c : Word, add32 a b = add32 b a ∧ add32 (add32 a b) c = add32 a (add32 b c) ∧ add32 a 0 = a) ∧
  add32 0xffffffff 0x00000001 = 0x00000000 ∧ add32 0xffffffff 0xffffffff = 0xfffffffe ∧
  add32 0x11111111 0x01020304 = 0x12131415 ∧
  (∀ (a b : Word) (k : Nat), (xor32 a b).getLsbD k = (a.getLsbD k ^^ b.getLsbD k)) ∧
  (∀ a : Word, xor32 a a = 0 ∧ xor32 a 0 = a ∧ xor32 a 0xffffffff = ~~~a) ∧
  xor32 0x01234567 0x12131415 = 0x13305172

/-- R102: bit `k` of `rotl(x, n)` is bit `(k - n) mod 32` of `x`. -/
def Obligations.RotationMovesBitsCyclically : Prop :=
  (∀ (x : Word) (n k : Nat), n < 32 → k < 32 → (rotl x n).getLsbD k = x.getLsbD ((k + 32 - n) % 32)) ∧
  (∀ n : Nat, n < 32 → rotl 0 n = 0 ∧ rotl 0xffffffff n = 0xffffffff) ∧ (∀ x : Word, rotl x 0 = x) ∧
  rotl 0x80000000 7 = 0x00000040 ∧ rotl 0x00000001 16 = 0x00010000 ∧ rotl 0x12345678 8 = 0x34567812

/-- 40_quarter_round.md sections 2 and 3 (R103, R107): QR is the twelve operations in their order, each reading what the one before
wrote; the fixed point, the wrapping corner case, and the example. -/
def Obligations.QuarterRoundIsItsTwelveOperations : Prop :=
  (∀ a b c d : Word,
    let a1 := a + b
    let d1 := (d ^^^ a1).rotateLeft 16
    let c1 := c + d1
    let b1 := (b ^^^ c1).rotateLeft 12
    let a2 := a1 + b1
    let d2 := (d1 ^^^ a2).rotateLeft 8
    let c2 := c1 + d2
    let b2 := (b1 ^^^ c2).rotateLeft 7
    qr ⟨a, b, c, d⟩ = ⟨a2, b2, c2, d2⟩) ∧
  qr ⟨0, 0, 0, 0⟩ = ⟨0, 0, 0, 0⟩ ∧
  qr ⟨0xffffffff, 1, 0, 0⟩ = ⟨0x00001000, 0x08080000, 0x00100000, 0x00100000⟩ ∧
  qr ⟨0x11111111, 0x01020304, 0x9b8d6f43, 0x01234567⟩ = ⟨0xea2a92f4, 0xcb1cf8ce, 0x4581472e, 0x5881c4bb⟩

/-- R104: QR_inv undoes QR, QR is a bijection, and so the 20 rounds are a permutation of the 16-word state. -/
def Obligations.QuarterRoundAndTwentyRoundsAreBijections : Prop :=
  (∀ q : Quad, qrInv (qr q) = q) ∧ Function.Bijective qr ∧ Function.Bijective rounds20 ∧
  qrInv ⟨0xea2a92f4, 0xcb1cf8ce, 0x4581472e, 0x5881c4bb⟩ = ⟨0x11111111, 0x01020304, 0x9b8d6f43, 0x01234567⟩

/-- R105: QR_at writes QR of the four words to their places and nothing else; a repeated index is refused; every tuple of the
round operand map has distinct indices; the example. -/
def Obligations.QuarterRoundAtChangesItsFourWords : Prop :=
  (∀ (x : Words) (t : Tuple), t.indices.Nodup → ∃ y, qrAtChecked x t = .ok y ∧ y = qrAt x t ∧
    quadAt y t = qr (quadAt x t) ∧ ∀ k : Fin 16, k ∉ t.indices → y[k] = x[k]) ∧
  (∀ (x : Words) (t : Tuple), ¬ t.indices.Nodup → qrAtChecked x t = .error .repeatedIndex) ∧
  (∀ t ∈ columnTuples ++ diagonalTuples, t.indices.Nodup) ∧
  qrAt #v[0x879531e0, 0xc5ecf37d, 0x516461b1, 0xc9a62f8a, 0x44c20ef3, 0x3390af7f, 0xd9fc690b, 0x2a5f714c,
      0x53372767, 0xb00a5631, 0x974c541a, 0x359e9963, 0x5c971061, 0x3d631689, 0x2098d9d6, 0x91dbd320] ⟨2, 7, 8, 13⟩ =
    #v[0x879531e0, 0xc5ecf37d, 0xbdb886dc, 0xc9a62f8a, 0x44c20ef3, 0x3390af7f, 0xd9fc690b, 0xcfacafd2,
      0xe46bea80, 0xb00a5631, 0x974c541a, 0x359e9963, 0x5c971061, 0xccc07c79, 0x2098d9d6, 0x91dbd320]

/-! ### The round schedule -/

/-- R85: the round operand map, which round a MIX step applies, and that each round names each index exactly once. -/
def Obligations.RoundOperandMapIsFixed : Prop :=
  (∀ s : State, s.rnd.toNat % 2 = 0 → (mixStep s).x =
    qrAt (qrAt (qrAt (qrAt s.x ⟨0, 4, 8, 12⟩) ⟨1, 5, 9, 13⟩) ⟨2, 6, 10, 14⟩) ⟨3, 7, 11, 15⟩) ∧
  (∀ s : State, s.rnd.toNat % 2 = 1 → (mixStep s).x =
    qrAt (qrAt (qrAt (qrAt s.x ⟨0, 5, 10, 15⟩) ⟨1, 6, 11, 12⟩) ⟨2, 7, 8, 13⟩) ⟨3, 4, 9, 14⟩) ∧
  (∀ i : Fin 16, (columnTuples.flatMap Tuple.indices).count i = 1 ∧ (diagonalTuples.flatMap Tuple.indices).count i = 1)

/-- R146: within a round the four quarter-rounds give the same result in any order, or all at once from the same input;
between rounds the order matters. The tuples of a round are pairwise disjoint. -/
def Obligations.OrderWithinARoundIsFree : Prop :=
  (columnTuples.Pairwise fun t u => ∀ i ∈ t.indices, i ∉ u.indices) ∧
  (diagonalTuples.Pairwise fun t u => ∀ i ∈ t.indices, i ∉ u.indices) ∧
  (∀ (ts : List Tuple) (x : Words), ts.Perm columnTuples → qrAll ts x = columnRound x) ∧
  (∀ (ts : List Tuple) (x : Words), ts.Perm diagonalTuples → qrAll ts x = diagonalRound x) ∧
  (∀ (x : Words) (t : Tuple), t ∈ columnTuples → quadAt (columnRound x) t = qr (quadAt x t)) ∧
  (∀ (x : Words) (t : Tuple), t ∈ diagonalTuples → quadAt (diagonalRound x) t = qr (quadAt x t)) ∧
  (∃ x : Words, diagonalRound (columnRound x) ≠ columnRound (diagonalRound x))

/-- R145 (with R144): Rounds20 is 10 double-rounds, which is the 20 rounds of the schedule, odd rounds column and even rounds
diagonal, counted from 1; it fixes the all-zero state, is a permutation, and gives the example. -/
def Obligations.TwentyRoundsAlternate : Prop :=
  (∀ x : Words, rounds20 x = (fun y => diagonalRound (columnRound y))^[10] x) ∧
  (∀ x : Words, rounds20 x = roundsUpTo 20 x) ∧
  (∀ (r : Nat) (x : Words), roundsUpTo (r + 1) x =
    if (r + 1) % 2 = 1 then columnRound (roundsUpTo r x) else diagonalRound (roundsUpTo r x)) ∧
  rounds20 (Vector.replicate 16 0) = Vector.replicate 16 0 ∧ Function.Bijective rounds20 ∧
  rounds20 #v[0x61707865, 0x3320646e, 0x79622d32, 0x6b206574, 0x03020100, 0x07060504, 0x0b0a0908, 0x0f0e0d0c,
      0x13121110, 0x17161514, 0x1b1a1918, 0x1f1e1d1c, 0x00000001, 0x09000000, 0x4a000000, 0x00000000] =
    #v[0x837778ab, 0xe238d763, 0xa67ae21e, 0x5950bb2f, 0xc4f2d0c7, 0xfc62bb2f, 0x8fa018fc, 0x3f5ec7b7,
      0x335271c2, 0xf29489f3, 0xeabda8fc, 0x82e46ebd, 0xd19c12b4, 0xb04e16de, 0x9e83d0cb, 0x4e3c50a2]

/-! ### Feedback, byte order, serializer, counter -/

/-- R147: each word of the feedback is the sum modulo 2^32 with no carry between words; word 12 uses the counter before its
increment, words 0 to 3 add `SIGMA`; the example. -/
def Obligations.FeedbackAddsWordByWord : Prop :=
  (∀ (x s : Words) (i : Fin 16), (feedback x s)[i].toNat = (x[i].toNat + s[i].toNat) % 2 ^ 32) ∧
  (∀ s : State, (feedback s.x s.inputState)[12] = add32 s.x[12] s.counter ∧
    ∀ i : Fin 4, (feedback s.x s.inputState)[i.val] = add32 s.x[i.val] s.config.sigma[i]) ∧
  add32 0x4c704011 0x61707865 = 0xade0b876

/-- R61, R62: the two byte orders, as numbers and as bits, each conversion the inverse of the other. -/
def Obligations.PackAndUnpackAreInverse : Prop :=
  (∀ b0 b1 b2 b3 : Byte, (pack32 .le b0 b1 b2 b3).toNat =
    b0.toNat + 2 ^ 8 * b1.toNat + 2 ^ 16 * b2.toNat + 2 ^ 24 * b3.toNat) ∧
  (∀ b0 b1 b2 b3 : Byte, (pack32 .be b0 b1 b2 b3).toNat =
    b3.toNat + 2 ^ 8 * b2.toNat + 2 ^ 16 * b1.toNat + 2 ^ 24 * b0.toNat) ∧
  (∀ w : Word, unpack32 .le w = #v[w.extractLsb 7 0, w.extractLsb 15 8, w.extractLsb 23 16, w.extractLsb 31 24]) ∧
  (∀ w : Word, unpack32 .be w = #v[w.extractLsb 31 24, w.extractLsb 23 16, w.extractLsb 15 8, w.extractLsb 7 0]) ∧
  (∀ (o : ByteOrder) (b0 b1 b2 b3 : Byte), unpack32 o (pack32 o b0 b1 b2 b3) = #v[b0, b1, b2, b3]) ∧
  (∀ (o : ByteOrder) (w : Word),
    pack32 o (unpack32 o w)[0] (unpack32 o w)[1] (unpack32 o w)[2] (unpack32 o w)[3] = w) ∧
  pack32 .le 0x00 0x01 0x02 0x03 = 0x03020100 ∧ pack32 .be 0x00 0x01 0x02 0x03 = 0x00010203 ∧
  unpack32 .le 0xe4e7f110 = #v[0x10, 0xf1, 0xe7, 0xe4] ∧ unpack32 .be 0xe4e7f110 = #v[0xe4, 0xe7, 0xf1, 0x10]

/-- R148: word `j` goes to bytes `4j` to `4j+3` in the configured order, and Serialize is a bijection. The word view of the
output (20_memory.md R66) is the third clause. -/
def Obligations.SerializeIsABijection : Prop :=
  (∀ (o : ByteOrder) (y : Words) (j : Fin 16) (k : Fin 4), (serialize o y)[4 * j.val + k.val] = (unpack32 o y[j])[k]) ∧
  (∀ o : ByteOrder, Function.Bijective (serialize o)) ∧
  (∀ (o : ByteOrder) (y : Words) (j : Fin 16), blockWord o (serialize o y) j = y[j])

/-- R150: under `WRAP32` the counter word wraps alone. -/
def Obligations.CounterWrapsAloneUnderWrap32 : Prop :=
  (∀ c n : Word, (ctrInc .wrap32 c n).1.toNat = (c.toNat + 1) % 2 ^ 32 ∧ (ctrInc .wrap32 c n).2 = n) ∧
  (∀ n : Word, ctrInc .wrap32 0xffffffff n = (0x00000000, n)) ∧
  (∀ s : State, s.config.counterMode = .wrap32 →
    incrementCounter s = { s with counter := add32 s.counter 1#32 })

/-- R151: under `CARRY64`, `{S[13], S[12]}` counts as one 64-bit number, and no other word of the nonce changes. -/
def Obligations.CounterCarriesUnderCarry64 : Prop :=
  (∀ c n : Word, counterValue .carry64 (ctrInc .carry64 c n).1 (ctrInc .carry64 c n).2 =
    (counterValue .carry64 c n + 1) % 2 ^ 64) ∧
  (∀ c n : Word, ctrInc .carry64 c n = (add32 c 1#32, if add32 c 1#32 = 0#32 then add32 n 1#32 else n)) ∧
  ctrInc .carry64 0xffffffff 0xffffffff = (0#32, 0#32) ∧ ctrInc .carry64 0xffffffff 0 = (0, 1) ∧
  (∀ s : State, s.config.counterMode = .carry64 → ∃ c n, (c, n) = ctrInc .carry64 s.counter s.nonce[0] ∧
    incrementCounter s = { s with counter := c, nonce := #v[n, s.nonce[1], s.nonce[2]] })

/-! ### LOAD -/

/-- R121, R126: a LOAD with a 32-byte key and a 12-byte nonce in phase IDLE builds the input state and touches nothing but
`S[4..15]`, `loaded`, `valid` and `blocks_since_load` (and the host's list of results, of which this says nothing). In a clock
cycle, a LOAD beat of any lengths in phase IDLE does in that one cycle what the LOAD does as one atomic step (R120). -/
def Obligations.LoadBuildsTheInputState : Prop :=
  (∀ (s : State) (key : Vector Byte 32) (nonce : Vector Byte 12) (ctr : Word), s.phase = .idle →
    ∃ t, exec (.load key.toList nonce.toList ctr) s = .next t ∧
      t = { s with key := t.key, counter := t.counter, nonce := t.nonce, loaded := true, valid := false,
                   blocksSinceLoad := 0, results := t.results } ∧
      t.inputState = initState s.config key nonce ctr ∧
      (∀ i : Fin 4, t.inputState[i.val] = s.config.sigma[i]) ∧
      (∀ i : Fin 8, t.inputState[4 + i.val] = pack32 s.config.byteOrder
        key[4 * i.val] key[4 * i.val + 1] key[4 * i.val + 2] key[4 * i.val + 3]) ∧
      t.inputState[12] = ctr ∧
      (∀ j : Fin 3, t.inputState[13 + j.val] = pack32 s.config.byteOrder
        nonce[4 * j.val] nonce[4 * j.val + 1] nonce[4 * j.val + 2] nonce[4 * j.val + 3])) ∧
  (∀ (s : State) (b : Beat) (key nonce : List Byte) (ctr : Word), b.instr = .load key nonce ctr → s.phase = .idle →
    clockCycle false b false s = exec (.load key nonce ctr) s) ∧
  initState Config.default (Vector.ofFn fun i : Fin 32 => BitVec.ofNat 8 i.val)
      #v[0, 0, 0, 9, 0, 0, 0, 0x4a, 0, 0, 0, 0] 1 =
    #v[0x61707865, 0x3320646e, 0x79622d32, 0x6b206574, 0x03020100, 0x07060504, 0x0b0a0908, 0x0f0e0d0c,
      0x13121110, 0x17161514, 0x1b1a1918, 0x1f1e1d1c, 0x00000001, 0x09000000, 0x4a000000, 0x00000000]

/-- R123: a LOAD of a wrong length in phase IDLE is rejected and changes no state of the block, whether or not an instance is
loaded, and records no fault. Only the host's list of results changes, of which this says nothing. -/
def Obligations.LoadOfWrongLengthChangesNothing : Prop :=
  ∀ (s : State) (key nonce : List Byte) (ctr : Word), s.phase = .idle → (key.length ≠ 32 ∨ nonce.length ≠ 12) →
    beatOutcome (.load key nonce ctr) s = .error .invalidKeyMaterial ∧
    ∃ rs, exec (.load key nonce ctr) s = .next { s with results := rs }

/-- 41_state_initializer.md section 2 (R122), 60_exceptions.md section 1 (R211): a LOAD in phase IDLE returns ok or, for a
wrong length of either operand, one `InvalidKeyMaterial`; and a command word never carries a wrong length. That the results
are listed in `results` is the model's choice (log entry 5). -/
def Obligations.LoadReturnsItsResult : Prop :=
  (∀ (s : State) (key nonce : List Byte) (ctr : Word), s.phase = .idle → ∃ t, exec (.load key nonce ctr) s = .next t ∧
    t.results = s.results ++ [if key.length = 32 ∧ nonce.length = 12 then .ok else .invalidKeyMaterial]) ∧
  (∀ (w : CommandWord) (key nonce : List Byte) (ctr : Word), decode w = .load key nonce ctr →
    key.length = 32 ∧ nonce.length = 12) ∧
  LoadResult.ok.code = 0 ∧ LoadResult.invalidKeyMaterial.code = 1

/-- R124: a LOAD of any lengths while a GEN is in progress records F_BUSY and nothing else, and at the cycle level the GEN does
its own MIX or FINAL step in that cycle. -/
def Obligations.LoadWhileBusyOnlyRecordsItsFault : Prop :=
  ∀ (s : State) (key nonce : List Byte) (ctr : Word), s.phase ≠ .idle → ∃ fs,
    exec (.load key nonce ctr) s = .next { s with faults := fs } ∧
    (∀ f, f ∈ fs ↔ f = .busy .load ∨ f ∈ s.faults) ∧
    ∀ b : Beat, b.instr = .load key nonce ctr → clockCycle false b false s = .next { sequencerStep s with faults := fs }

/-- 41_state_initializer.md section 2 (R125, R126) and 70_reset_and_hazards.md section 3 (R244): after a successful LOAD,
`OUT` still holds the old bytes, but a READ returns none and faults. That the port `ks_out` then shows no value is the model's
choice (log entry 8): R244 says that the model does not say what it shows. -/
def Obligations.LoadHidesTheOldBlock : Prop :=
  ∀ (s : State) (key : Vector Byte 32) (nonce : Vector Byte 12) (ctr : Word), s.phase = .idle →
    ∃ t, exec (.load key.toList nonce.toList ctr) s = .next t ∧ t.out = s.out ∧ t.readBlock = none ∧
      t.ports.ksOut = none ∧ hostRead t = recordFault .readInvalid t

/-- R128: `pack32` is a bijection; InitState is injective on `S[4..15]`, and the operands can be read back with `unpack32`;
the example under `BE`. -/
def Obligations.InitStateIsInjective : Prop :=
  (∀ o : ByteOrder, Function.Bijective fun b : Vector Byte 4 => pack32 o b[0] b[1] b[2] b[3]) ∧
  (∀ (c : Config) (k k' : Vector Byte 32) (n n' : Vector Byte 12) (ctr ctr' : Word),
    (∀ i : Fin 16, 4 ≤ i.val → (initState c k n ctr)[i] = (initState c k' n' ctr')[i]) → k = k' ∧ n = n' ∧ ctr = ctr') ∧
  (∀ (c : Config) (k : Vector Byte 32) (n : Vector Byte 12) (ctr : Word),
    (∀ (i : Fin 8) (j : Fin 4),
      (unpack32 c.byteOrder (initState c k n ctr)[4 + i.val])[j] = k[4 * i.val + j.val]) ∧
    (∀ (i : Fin 3) (j : Fin 4),
      (unpack32 c.byteOrder (initState c k n ctr)[13 + i.val])[j] = n[4 * i.val + j.val]) ∧
    (initState c k n ctr)[12] = ctr) ∧
  (initState { Config.default with byteOrder := .be } (Vector.ofFn fun i : Fin 32 => BitVec.ofNat 8 i.val)
      #v[0, 0, 0, 9, 0, 0, 0, 0x4a, 0, 0, 0, 0] 1).toList.drop 4 =
    [0x00010203, 0x04050607, 0x08090a0b, 0x0c0d0e0f, 0x10111213, 0x14151617, 0x18191a1b, 0x1c1d1e1f,
      0x00000001, 0x00000009, 0x0000004a, 0x00000000]

/-! ### GEN -/

/-- 42_block_generator.md sections 1 and 5 (R140, R153): a GEN in phase IDLE with an instance loaded writes `OUT` with the block of
the input state, advances the counter, sets `valid` and counts the block; it writes nothing else. -/
def Obligations.GenWritesOneBlock : Prop :=
  ∀ s : State, s.phase = .idle → s.loaded = true →
    exec .gen s = .next { s with
      x := rounds20 s.inputState
      out := serialize s.config.byteOrder (feedback (rounds20 s.inputState) s.inputState)
      counter := (ctrInc s.config.counterMode s.counter s.nonce[0]).1
      nonce := #v[(ctrInc s.config.counterMode s.counter s.nonce[0]).2, s.nonce[1], s.nonce[2]]
      valid := true
      blocksSinceLoad := s.blocksSinceLoad + 1 }

/-- 95_test_vectors.md section 5 (V-GEN-1, V-GEN-6): the zero block, and the counter wrap, from any state in phase IDLE in the
default configuration. -/
def Obligations.GenGivesThePublishedZeroBlock : Prop :=
  ∀ s : State, s.phase = .idle → s.config = Config.default →
    (∃ t, runEvents [.command (.call (.loadDefault (List.replicate 32 0) (List.replicate 12 0))), genCommand] s = .next t ∧
      t.counter = 1 ∧ t.nonce = #v[0, 0, 0] ∧ t.valid = true ∧ t.blocksSinceLoad = 1 ∧ t.out = #v[
        0x76, 0xb8, 0xe0, 0xad, 0xa0, 0xf1, 0x3d, 0x90, 0x40, 0x5d, 0x6a, 0xe5, 0x53, 0x86, 0xbd, 0x28,
        0xbd, 0xd2, 0x19, 0xb8, 0xa0, 0x8d, 0xed, 0x1a, 0xa8, 0x36, 0xef, 0xcc, 0x8b, 0x77, 0x0d, 0xc7,
        0xda, 0x41, 0x59, 0x7c, 0x51, 0x57, 0x48, 0x8d, 0x77, 0x24, 0xe0, 0x3f, 0xb8, 0xd8, 0x4a, 0x37,
        0x6a, 0x43, 0xb8, 0xf4, 0x15, 0x18, 0xa1, 0x1c, 0xc3, 0x87, 0xb6, 0x69, 0xb2, 0xee, 0x65, 0x86]) ∧
    (∃ t, runEvents [.command (.call (.load (List.replicate 32 0) (List.replicate 12 0) 0xffffffff)), genCommand] s =
        .next t ∧
      t.counter = 0 ∧ t.nonce = #v[0, 0, 0] ∧ t.faults = s.faults ∧
      t.out.toList.take 4 = [0xac, 0xe4, 0xcd, 0x09])

/-- R159: a GEN that is not accepted records F_BUSY, or in phase IDLE F_NOT_LOADED, and nothing else; a GEN in progress goes
on. -/
def Obligations.GenThatCannotRunOnlyRecordsItsFault : Prop :=
  (∀ s : State, s.phase ≠ .idle → ∃ fs,
    exec .gen s = .next { s with faults := fs } ∧ (∀ f, f ∈ fs ↔ f = .busy .gen ∨ f ∈ s.faults) ∧
    ∀ b : Beat, b.instr = .gen → clockCycle false b false s = .next { sequencerStep s with faults := fs }) ∧
  (∀ s : State, s.phase = .idle → s.loaded = false → ∃ fs,
    exec .gen s = .next { s with faults := fs } ∧ (∀ f, f ∈ fs ↔ f = .notLoaded .gen ∨ f ∈ s.faults) ∧
    ∀ b : Beat, b.instr = .gen → clockCycle false b false s = .next { s with faults := fs })

/-- R160: after a successful LOAD of counter `c` and `N` GENs under `WRAP32`, the counter is `c + N` modulo 2^32,
`blocks_since_load` is `N`, and key and nonce are unchanged; so the k-th GEN used `c + k - 1` (the statement at `N = k - 1`),
and those values are pairwise distinct exactly when `N` is at most 2^32. -/
def Obligations.CounterAdvancesOncePerBlock : Prop :=
  ∀ (s : State) (key : Vector Byte 32) (nonce : Vector Byte 12) (c : Word) (N : Nat),
    s.config.counterMode = .wrap32 → s.phase = .idle →
    (∃ t, runEvents (.command (.call (.load key.toList nonce.toList c)) :: List.replicate N genCommand) s = .next t ∧
      t.counter.toNat = (c.toNat + N) % 2 ^ 32 ∧ t.blocksSinceLoad = N ∧
      t.key = keyWords s.config.byteOrder key ∧ t.nonce = nonceWords s.config.byteOrder nonce) ∧
    ((∀ i j, i < N → j < N → (c.toNat + i) % 2 ^ 32 = (c.toNat + j) % 2 ^ 32 → i = j) ↔ N ≤ 2 ^ 32)

/-- 42_block_generator.md section 5 (R161) and section 4 (R151): under `CARRY64`, `N` GENs advance the 64-bit counter by `N`.
43_stream_cipher_host.md section 2 (R196), in both counter modes: after two LOADs of one key and nonce, `N` and `N'` GENs use
no counter twice exactly when neither range of counters is longer than the period and the two do not overlap. That words 12
and 13 together are the counter of R196 under `CARRY64` is log entry 16. -/
def Obligations.LongCounterAdvancesOncePerBlock : Prop :=
  (∀ (s : State) (N : Nat), s.config.counterMode = .carry64 → s.phase = .idle → s.loaded = true →
    ∃ t, runEvents (List.replicate N genCommand) s = .next t ∧
      t.counterValue = (s.counterValue + N) % 2 ^ 64 ∧ t.blocksSinceLoad = s.blocksSinceLoad + N ∧
      t.key = s.key ∧ t.nonce[1] = s.nonce[1] ∧ t.nonce[2] = s.nonce[2]) ∧
  (∀ (s : State) (key : Vector Byte 32) (nonce : Vector Byte 12) (c c' : Word) (N N' p : Nat) (v : Word → Nat),
    s.phase = .idle → p = counterPeriod s.config.counterMode →
    v = (fun ctr => counterValue s.config.counterMode ctr (nonceWords s.config.byteOrder nonce)[0]) →
    (noReuse [(N + N' + 2, { s with
        pending := (loadCommand key.toList nonce.toList c :: List.replicate N genCommand) ++
          (loadCommand key.toList nonce.toList c' :: List.replicate N' genCommand) })] ↔
      N ≤ p ∧ N' ≤ p ∧ ∀ i j, i < N → j < N' → (v c + i) % p ≠ (v c' + j) % p))

/-- R153: BlockFn is the stated composition, a GEN writes it to `OUT`, equal input states give equal blocks and equal
counters, and two machines in one configuration, loaded with the same key, nonce and counter and given the same commands, hold
the same block after each of them, whatever else they held before. -/
def Obligations.EqualInstancesGiveEqualBlocks : Prop :=
  (∀ (o : ByteOrder) (w : Words), blockFn o w = serialize o (feedback (rounds20 w) w)) ∧
  (∀ s s' : State, s.phase = .idle → s'.phase = .idle → s.loaded = true → s'.loaded = true →
    s.config = s'.config → s.inputState = s'.inputState →
    ∃ t t', exec .gen s = .next t ∧ exec .gen s' = .next t' ∧
      t.out = blockFn s.config.byteOrder s.inputState ∧ t'.out = t.out ∧ t'.inputState = t.inputState) ∧
  (∀ (s s' : State) (key : Vector Byte 32) (nonce : Vector Byte 12) (c : Word) (cs : List Instr),
    s.phase = .idle → s'.phase = .idle → s.config = s'.config →
    ∃ t t', runEvents ((.load key.toList nonce.toList c :: cs).map fun i => .command (.call i)) s = .next t ∧
      runEvents ((.load key.toList nonce.toList c :: cs).map fun i => .command (.call i)) s' = .next t' ∧
      t.inputState = t'.inputState ∧ t.valid = t'.valid ∧ t.blocksSinceLoad = t'.blocksSinceLoad ∧
      (t.valid = true → t.out = t'.out))

/-! ### The cycle-level sequencer -/

/-- R154: the accept step, and what the host sees from the next cycle; a GEN that is not accepted only records its fault, and
the sequencer's own step in that cycle, if a GEN is in progress, is all that happens beside it. -/
def Obligations.AcceptStepStartsAGen : Prop :=
  (∀ (s : State) (b : Beat), b.instr = .gen → s.phase = .idle → s.loaded = true →
    ∃ t, clockCycle false b false s = .next t ∧
      t = { s with x := s.inputState, rnd := 0#5, phase := .mix, valid := false } ∧
      t.ports.stBusy = true ∧ t.ports.ksValid = false) ∧
  (∀ (s : State) (b : Beat), b.instr = .gen → s.phase ≠ .idle → ∃ fs,
    clockCycle false b false s = .next { sequencerStep s with faults := fs } ∧
    ∀ f, f ∈ fs ↔ f = .busy .gen ∨ f ∈ s.faults) ∧
  (∀ (s : State) (b : Beat), b.instr = .gen → s.phase = .idle → s.loaded = false → ∃ fs,
    clockCycle false b false s = .next { s with faults := fs } ∧
    ∀ f, f ∈ fs ↔ f = .notLoaded .gen ∨ f ∈ s.faults)

/-- R155: in every cycle with `phase = MIX`, whatever the beat, one round is applied, and nothing but `faults` depends on the
beat; 20 such cycles apply the 20 rounds and end before the FINAL step. -/
def Obligations.MixStepAppliesOneRound : Prop :=
  (∀ (s : State) (b : Beat), s.phase = .mix → ∃ fs,
    clockCycle false b false s = .next { s with
      x := if s.rnd.toNat % 2 = 0 then columnRound s.x else diagonalRound s.x
      phase := if s.rnd = 19#5 then .final else .mix
      rnd := s.rnd + 1#5
      faults := fs } ∧
    (b.instr = .nop → fs = s.faults) ∧
    (b.instr ≠ .nop → ∃ f, f ∈ fs ∧ (f = .busy .load ∨ f = .busy .gen ∨ f = .reserved .reserved))) ∧
  (∀ (s : State) (bs : List Beat), s.phase = .mix → s.rnd = 0#5 → bs.length = 20 →
    ∃ t, runEvents (bs.map fun b => .cycle false b false) s = .next t ∧
      t.x = rounds20 s.x ∧ t.rnd = 20#5 ∧ t.phase = .final)

/-- R156: in the cycle with `phase = FINAL`, whatever the beat, the block, the counter and the flags are written at once, the
block from the counter before its increment; from the next cycle the host sees `ks_valid = 1` and `st_busy = 0`. -/
def Obligations.FinalStepPublishesTheBlock : Prop :=
  ∀ (s : State) (b : Beat), s.phase = .final → ∃ fs,
    clockCycle false b false s = .next { s with
      out := serialize s.config.byteOrder (feedback s.x s.inputState)
      counter := (ctrInc s.config.counterMode s.counter s.nonce[0]).1
      nonce := #v[(ctrInc s.config.counterMode s.counter s.nonce[0]).2, s.nonce[1], s.nonce[2]]
      valid := true
      blocksSinceLoad := s.blocksSinceLoad + 1
      rnd := 0#5
      phase := .idle
      faults := fs } ∧
    (b.instr = .nop → fs = s.faults) ∧
    ∀ t, clockCycle false b false s = .next t → t.ports.ksValid = true ∧ t.ports.stBusy = false

/-- R157: from the accept step, 22 cycles with any beats, and no fewer, end in the state of the transaction-level GEN, but for
`faults`, which can only grow, and does not when every beat is NOP. -/
def Obligations.SequencerAgreesWithAtomicGen : Prop :=
  ∀ (s : State) (g : Beat) (bs : List Beat),
    g.instr = .gen → bs.length = 21 → s.phase = .idle → s.rnd = 0#5 → s.loaded = true →
    ∃ t u, runEvents ((g :: bs).map fun b => .cycle false b false) s = .next t ∧
      exec .gen { s with pending := [] } = .next u ∧
      t = { u with faults := t.faults } ∧
      (∀ f ∈ s.faults, f ∈ t.faults) ∧
      ((∀ b ∈ bs, b.instr = .nop) → t.faults = s.faults) ∧
      (∀ k ≤ 20, ∃ v, runEvents ((g :: bs.take k).map fun b => .cycle false b false) s = .next v ∧ v.phase ≠ .idle)

/-- R162: the timeline of one GEN with NOP beats: what the host sees in cycle 0; phase, `rnd`, `st_busy`, `ks_valid` and `X`
at the start of cycle `k + 1`, for `k` from 0 to 20; and the end at cycle 22. -/
def Obligations.TimelineOfOneGen : Prop :=
  ∀ s : State, s.phase = .idle → s.loaded = true →
    (s.ports.stBusy = false ∧ s.ports.ksValid = s.valid) ∧
    (∀ k ≤ 20, ∃ t, runEvents (.cycle false (.call .gen) false :: List.replicate k nopCycle) s = .next t ∧
      t.phase = (if k = 20 then .final else .mix) ∧ t.rnd.toNat = k ∧ t.x = roundsUpTo k s.inputState ∧
      t.ports.stBusy = true ∧ t.ports.ksValid = false ∧ t.out = s.out ∧ t.counter = s.counter) ∧
    (∃ t, runEvents (.cycle false (.call .gen) false :: List.replicate (Config.genLatency - 1) nopCycle) s = .next t ∧
      t.phase = .idle ∧ t.rnd = 0#5 ∧ t.ports.stBusy = false ∧ t.ports.ksValid = true ∧
      t.out = blockFn s.config.byteOrder s.inputState ∧
      (t.counter, t.nonce[0]) = ctrInc s.config.counterMode s.counter s.nonce[0])

/-- 30_encoding.md section 4 (R90) and 70_reset_and_hazards.md section 3 (R243): WAIT's NOP beats end with `st_busy = 0`, and
no fewer do. -/
def Obligations.WaitEndsWithTheBlockFree : Prop :=
  ∀ s : State, Inv s →
    (∃ t, runEvents (waitEvents s) s = .next t ∧ t.busy = false ∧ t.faults = s.faults) ∧
    (∀ k < s.busyCycles, ∃ t, runEvents (List.replicate k nopCycle) s = .next t ∧ t.busy = true)

/-- R215: (a) reset and a beat in one cycle: reset wins, without a fault; (b) the FINAL step and a LOAD or GEN: the beat
faults and the FINAL step completes; (c) the FINAL step and a READ, beside any beat: the READ faults, and the block is valid
one cycle later (the host's list of blocks READ is left open). -/
def Obligations.EventsInOneCycle : Prop :=
  (∀ (s : State) (b : Beat), clockCycle true b false s = .next (resetEvent s) ∧ (resetEvent s).faults = s.faults) ∧
  (∀ (s : State) (b : Beat), s.phase = .final →
    (b.instr = .gen → clockCycle false b false s = .next { finalStep s with faults := insertFault (.busy .gen) s.faults }) ∧
    (∀ key nonce ctr, b.instr = .load key nonce ctr →
      clockCycle false b false s = .next { finalStep s with faults := insertFault (.busy .load) s.faults })) ∧
  (∀ (s : State) (b : Beat), s.phase = .final → s.valid = false → ∃ t, clockCycle false b true s = .next t ∧
    t = { finalStep s with faults := t.faults, blocksRead := t.blocksRead } ∧ t.valid = true ∧
    ∀ f, f ∈ t.faults ↔ f = .readInvalid ∨ beatOutcome b.instr s = .fault f ∨ f ∈ s.faults) ∧
  (∀ (f g : Fault) (fs : List Fault), g ∈ insertFault f fs ↔ g = f ∨ g ∈ fs)

/-! ### READ and the status outputs -/

/-- 70_reset_and_hazards.md section 3 (R244), 20_memory.md section 4 (R68): a READ takes the block while `ks_valid = 1` and
changes nothing of the block; otherwise it records F_READ_INVALID and returns no bytes. In a clock cycle, whatever the beat and
`rst`, the READ is done on the outputs of that cycle and the rest of the cycle is as without it: in an IDLE cycle with NOP the
READ is all that happens (95_test_vectors.md P6). That the blocks READ are listed in `blocksRead` is the model's choice (log
entry 5), and so is a READ in a reset cycle (log entry 6). -/
def Obligations.ReadTakesAValidBlockOnly : Prop :=
  (∀ (s : State) (rest : List HostEvent), s.pending = .read :: rest → s.valid = true →
    step s = .next { s with pending := rest, blocksRead := s.blocksRead ++ [s.out] }) ∧
  (∀ (s : State) (rest : List HostEvent), s.pending = .read :: rest → s.valid = false → ∃ fs,
    step s = .next { s with pending := rest, faults := fs } ∧ ∀ f, f ∈ fs ↔ f = .readInvalid ∨ f ∈ s.faults) ∧
  (∀ (s : State) (b : Beat), b.instr = .nop → s.phase = .idle → s.valid = true →
    clockCycle false b true s = .next { s with blocksRead := s.blocksRead ++ [s.out] }) ∧
  (∀ (s : State) (b : Beat), b.instr = .nop → s.phase = .idle → s.valid = false → ∃ fs,
    clockCycle false b true s = .next { s with faults := fs } ∧ ∀ f, f ∈ fs ↔ f = .readInvalid ∨ f ∈ s.faults) ∧
  (∀ (s : State) (rst : Bool) (b : Beat),
    (s.valid = true →
      clockCycle rst b true s = clockCycle rst b false { s with blocksRead := s.blocksRead ++ [s.out] }) ∧
    (s.valid = false →
      clockCycle rst b true s = clockCycle rst b false { s with faults := insertFault .readInvalid s.faults }))

/-- R33: `busy` is derived from `phase` and shown on `st_busy`; it is 1 in the cycles 1 to 21 of a GEN, whatever the beats; at
the transaction level it is always 0 between commands. -/
def Obligations.BusyIsDerivedFromPhase : Prop :=
  (∀ s : State, s.ports.stBusy = true ↔ s.phase ≠ .idle) ∧
  (∀ (s : State) (g : Beat) (bs : List Beat), g.instr = .gen → s.phase = .idle → s.loaded = true → bs.length ≤ 20 →
    ∃ t, runEvents ((g :: bs).map fun b => .cycle false b false) s = .next t ∧ t.ports.stBusy = true) ∧
  (∀ (s t : State) (b : Beat) (rest : List HostEvent), s.pending = .command b :: rest → s.ports.stBusy = false →
    step s = .next t → t.ports.stBusy = false)

/-- 10_state.md section 5 (R31, R32): only a successful LOAD sets `loaded`, only reset clears it; `valid` rises only when a
block is completed, and falls only at a reset, an accepted GEN or a successful LOAD, which is one presented in phase IDLE with
a key of 32 and a nonce of 12 bytes. -/
def Obligations.FlagsChangeOnlyAsTheirRulesSay : Prop :=
  ∀ s t : State, step s = .next t →
    (s.loaded = false → t.loaded = true → s.loadsInstance ∧ t.blocksSinceLoad = 0) ∧
    (s.loaded = true → t.loaded = false → resets s.nextEvent = true) ∧
    (s.valid = false → t.valid = true →
      t.blocksSinceLoad = s.blocksSinceLoad + 1 ∧ (s.loaded = true ∨ s.phase = .final)) ∧
    (s.valid = true → t.valid = false → resets s.nextEvent = true ∨ s.loadsInstance ∨
      (s.phase = .idle ∧ s.loaded = true ∧ presented s.nextEvent = some .gen ∧ t.phase = .mix))

/-- 10_state.md section 2 (R23 to R25), 42_block_generator.md section 3 (R149): without a reset or a successful LOAD, a step
keeps the key and words 14 and 15; under `WRAP32` it keeps word 13 too; and it writes `OUT`, the counter or word 13 only by
completing a block. -/
def Obligations.InstanceChangesOnlyByItsCommands : Prop :=
  ∀ s t : State, step s = .next t → resets s.nextEvent = false →
    (¬ s.loadsInstance → t.key = s.key ∧ t.nonce[1] = s.nonce[1] ∧ t.nonce[2] = s.nonce[2] ∧
      (s.config.counterMode = .wrap32 → t.nonce = s.nonce)) ∧
    (¬ s.loadsInstance → t.counter ≠ s.counter ∨ t.nonce ≠ s.nonce →
      t.blocksSinceLoad = s.blocksSinceLoad + 1 ∧ t.valid = true) ∧
    (t.out ≠ s.out → t.blocksSinceLoad = s.blocksSinceLoad + 1 ∧ t.valid = true)

/-! ### Faults, runs, invariants -/

/-- 60_exceptions.md section 1 (R213), 70_reset_and_hazards.md section 5 (R249): a fault is never removed, not by reset and
not by LOAD, and a run with a fault recorded never ends successfully. -/
def Obligations.FaultedRunsNeverEndSuccessfully : Prop :=
  (∀ s t : State, step s = .next t → ∀ f ∈ s.faults, f ∈ t.faults) ∧
  (∀ (n : Nat) (s t : State), s.faults ≠ [] → run n s = .next t → t.faults ≠ [] ∧ ¬ successfulEnd t)

/-- The invariant holds at power-on in every configuration, the reset state's among them. -/
def Obligations.InvariantHoldsAtPowerOn : Prop :=
  (∀ (c : Config) (source : Nat), Inv (State.powerOn c source)) ∧ Inv State.reset

/-- 10_state.md sections 3 to 5 (R27 to R32, R37), 42_block_generator.md section 1 (R141): from every state that meets the
invariant, a step gives a state that meets it. Mid-GEN, `X` holds `rnd` rounds of `S`; while `valid = 1`, `OUT` is the block of
the input state before the last counter increment; `phase` and `rnd` agree; a GEN in progress has an instance. -/
def Obligations.EveryStepKeepsTheInvariant : Prop :=
  ∀ s t : State, Inv s → step s = .next t → Inv t

/-! ### The host's stream cipher, and several instances -/

/-- R191, R193: XorStream on a loaded, idle machine returns a sequence of the message's length and issues `ceil(n / 64)`
GENs; the counter word advances by as many (R190), and the rest of the last block is not used again (R192). -/
def Obligations.XorStreamKeepsLengthAndCountsBlocks : Prop :=
  (∀ (s : State) (msg : List Byte), s.phase = .idle → s.loaded = true →
    ∃ c t, xorStream msg s = (some c, t) ∧ c.length = msg.length ∧
      t.blocksSinceLoad = s.blocksSinceLoad + (msg.length + 63) / 64 ∧
      t.counter.toNat = (s.counter.toNat + (msg.length + 63) / 64) % 2 ^ 32 ∧
      t.faults = s.faults) ∧
  (∀ n : Nat, blocksFor n = ⌈(n : ℚ) / 64⌉₊) ∧
  blocksFor 0 = 0 ∧ (∀ n : Nat, 1 ≤ n → n ≤ 64 → blocksFor n = 1) ∧ (∀ n : Nat, 65 ≤ n → n ≤ 128 → blocksFor n = 2) ∧
  blocksFor 1000 = 16

/-- 43_stream_cipher_host.md section 1 (R190): byte `64k + t` of the result is the message byte XOR byte `t` of the block
that the k-th GEN gives. -/
def Obligations.XorStreamUsesSuccessiveBlocks : Prop :=
  ∀ (s : State) (msg res : List Byte) (t : State), s.phase = .idle → s.loaded = true → xorStream msg s = (some res, t) →
    ∀ (i : Nat) (h : i < msg.length), res[i]? = some
      (msg[i] ^^^ (blockFn s.config.byteOrder (incrementCounter^[i / 64] s).inputState)[i % 64])

/-- R194: encryption and decryption are one operation: a second machine in the same configuration, loaded with the same key,
nonce and counter, gives the message back; on one machine a second call goes on from the counter the first left, and does not
decrypt. -/
def Obligations.DecryptingAnEncryptionGivesTheMessage : Prop :=
  (∀ (s s' : State) (key : Vector Byte 32) (nonce : Vector Byte 12) (c : Word) (msg : List Byte),
    s.phase = .idle → s'.phase = .idle → s.config = s'.config →
    ∃ t t' e u u', exec (.load key.toList nonce.toList c) s = .next t ∧ exec (.load key.toList nonce.toList c) s' = .next t' ∧
      xorStream msg t = (some e, u) ∧ xorStream e t' = (some msg, u')) ∧
  (∃ (s t u : State) (msg e m : List Byte), s.phase = .idle ∧ s.loaded = true ∧ xorStream msg s = (some e, t) ∧
    t.counter = add32 s.counter 1#32 ∧ xorStream e t = (some m, u) ∧ m ≠ msg)

/-- 60_exceptions.md section 4 (R223): a step of instance `k` does to instance `k` what `step` does and changes no other, and
steps of two instances can be done in either order. That a system is a list of States, one of which steps, is the model's
choice (log entry 15). -/
def Obligations.InstancesShareNoState : Prop :=
  (∀ (sys : List State) (j k : Nat), j ≠ k →
    (stepInstance k sys)[j]? = sys[j]? ∧ (stepInstance k sys).length = sys.length) ∧
  (∀ (sys : List State) (k : Nat) (s : State), sys[k]? = some s →
    ∃ t, step s = .next t ∧ (stepInstance k sys)[k]? = some t) ∧
  (∀ (sys : List State) (j k : Nat), j ≠ k → stepInstance j (stepInstance k sys) = stepInstance k (stepInstance j sys))
end

