-- ==== Sys2Proof/Laws/State.lean ====
section
/-! SUPPORT. One lemma per field of State per update, each true by unfolding, so that no later proof unfolds a record
update. -/

namespace Sys2Proof.Machine

@[simp] theorem recordFault_config (f : Fault) (s : State) : (recordFault f s).config = s.config := rfl
@[simp] theorem recordFault_key (f : Fault) (s : State) : (recordFault f s).key = s.key := rfl
@[simp] theorem recordFault_counter (f : Fault) (s : State) : (recordFault f s).counter = s.counter := rfl
@[simp] theorem recordFault_nonce (f : Fault) (s : State) : (recordFault f s).nonce = s.nonce := rfl
@[simp] theorem recordFault_x (f : Fault) (s : State) : (recordFault f s).x = s.x := rfl
@[simp] theorem recordFault_rnd (f : Fault) (s : State) : (recordFault f s).rnd = s.rnd := rfl
@[simp] theorem recordFault_phase (f : Fault) (s : State) : (recordFault f s).phase = s.phase := rfl
@[simp] theorem recordFault_out (f : Fault) (s : State) : (recordFault f s).out = s.out := rfl
@[simp] theorem recordFault_valid (f : Fault) (s : State) : (recordFault f s).valid = s.valid := rfl
@[simp] theorem recordFault_loaded (f : Fault) (s : State) : (recordFault f s).loaded = s.loaded := rfl
@[simp] theorem recordFault_blocksSinceLoad (f : Fault) (s : State) : (recordFault f s).blocksSinceLoad = s.blocksSinceLoad :=
  rfl
@[simp] theorem recordFault_faults (f : Fault) (s : State) : (recordFault f s).faults = insertFault f s.faults := rfl
@[simp] theorem recordFault_freeSource (f : Fault) (s : State) : (recordFault f s).freeSource = s.freeSource := rfl
@[simp] theorem recordFault_freeDraws (f : Fault) (s : State) : (recordFault f s).freeDraws = s.freeDraws := rfl
@[simp] theorem recordFault_pending (f : Fault) (s : State) : (recordFault f s).pending = s.pending := rfl
@[simp] theorem recordFault_results (f : Fault) (s : State) : (recordFault f s).results = s.results := rfl
@[simp] theorem recordFault_blocksRead (f : Fault) (s : State) : (recordFault f s).blocksRead = s.blocksRead := rfl

@[simp] theorem writeS_config (w : Words) (s : State) : (s.writeS w).config = s.config := rfl
@[simp] theorem writeS_key (w : Words) (s : State) : (s.writeS w).key = #v[w[4], w[5], w[6], w[7], w[8], w[9], w[10], w[11]] :=
  rfl
@[simp] theorem writeS_counter (w : Words) (s : State) : (s.writeS w).counter = w[12] := rfl
@[simp] theorem writeS_nonce (w : Words) (s : State) : (s.writeS w).nonce = #v[w[13], w[14], w[15]] := rfl
@[simp] theorem writeS_x (w : Words) (s : State) : (s.writeS w).x = s.x := rfl
@[simp] theorem writeS_rnd (w : Words) (s : State) : (s.writeS w).rnd = s.rnd := rfl
@[simp] theorem writeS_phase (w : Words) (s : State) : (s.writeS w).phase = s.phase := rfl
@[simp] theorem writeS_out (w : Words) (s : State) : (s.writeS w).out = s.out := rfl
@[simp] theorem writeS_valid (w : Words) (s : State) : (s.writeS w).valid = s.valid := rfl
@[simp] theorem writeS_loaded (w : Words) (s : State) : (s.writeS w).loaded = s.loaded := rfl
@[simp] theorem writeS_blocksSinceLoad (w : Words) (s : State) : (s.writeS w).blocksSinceLoad = s.blocksSinceLoad := rfl
@[simp] theorem writeS_faults (w : Words) (s : State) : (s.writeS w).faults = s.faults := rfl
@[simp] theorem writeS_freeSource (w : Words) (s : State) : (s.writeS w).freeSource = s.freeSource := rfl
@[simp] theorem writeS_freeDraws (w : Words) (s : State) : (s.writeS w).freeDraws = s.freeDraws := rfl
@[simp] theorem writeS_pending (w : Words) (s : State) : (s.writeS w).pending = s.pending := rfl
@[simp] theorem writeS_results (w : Words) (s : State) : (s.writeS w).results = s.results := rfl
@[simp] theorem writeS_blocksRead (w : Words) (s : State) : (s.writeS w).blocksRead = s.blocksRead := rfl

@[simp] theorem writeCounter_config (c n : Word) (s : State) : (s.writeCounter c n).config = s.config := rfl
@[simp] theorem writeCounter_key (c n : Word) (s : State) : (s.writeCounter c n).key = s.key := rfl
@[simp] theorem writeCounter_counter (c n : Word) (s : State) : (s.writeCounter c n).counter = c := rfl
@[simp] theorem writeCounter_nonce (c n : Word) (s : State) : (s.writeCounter c n).nonce = s.nonce.set 0 n := rfl
@[simp] theorem writeCounter_x (c n : Word) (s : State) : (s.writeCounter c n).x = s.x := rfl
@[simp] theorem writeCounter_rnd (c n : Word) (s : State) : (s.writeCounter c n).rnd = s.rnd := rfl
@[simp] theorem writeCounter_phase (c n : Word) (s : State) : (s.writeCounter c n).phase = s.phase := rfl
@[simp] theorem writeCounter_out (c n : Word) (s : State) : (s.writeCounter c n).out = s.out := rfl
@[simp] theorem writeCounter_valid (c n : Word) (s : State) : (s.writeCounter c n).valid = s.valid := rfl
@[simp] theorem writeCounter_loaded (c n : Word) (s : State) : (s.writeCounter c n).loaded = s.loaded := rfl
@[simp] theorem writeCounter_blocksSinceLoad (c n : Word) (s : State) : (s.writeCounter c n).blocksSinceLoad = s.blocksSinceLoad :=
  rfl
@[simp] theorem writeCounter_faults (c n : Word) (s : State) : (s.writeCounter c n).faults = s.faults := rfl
@[simp] theorem writeCounter_freeSource (c n : Word) (s : State) : (s.writeCounter c n).freeSource = s.freeSource := rfl
@[simp] theorem writeCounter_freeDraws (c n : Word) (s : State) : (s.writeCounter c n).freeDraws = s.freeDraws := rfl
@[simp] theorem writeCounter_pending (c n : Word) (s : State) : (s.writeCounter c n).pending = s.pending := rfl
@[simp] theorem writeCounter_results (c n : Word) (s : State) : (s.writeCounter c n).results = s.results := rfl
@[simp] theorem writeCounter_blocksRead (c n : Word) (s : State) : (s.writeCounter c n).blocksRead = s.blocksRead := rfl

@[simp] theorem setValid_config (v : Bool) (s : State) : (s.setValid v).config = s.config := rfl
@[simp] theorem setValid_key (v : Bool) (s : State) : (s.setValid v).key = s.key := rfl
@[simp] theorem setValid_counter (v : Bool) (s : State) : (s.setValid v).counter = s.counter := rfl
@[simp] theorem setValid_nonce (v : Bool) (s : State) : (s.setValid v).nonce = s.nonce := rfl
@[simp] theorem setValid_x (v : Bool) (s : State) : (s.setValid v).x = s.x := rfl
@[simp] theorem setValid_rnd (v : Bool) (s : State) : (s.setValid v).rnd = s.rnd := rfl
@[simp] theorem setValid_phase (v : Bool) (s : State) : (s.setValid v).phase = s.phase := rfl
@[simp] theorem setValid_out (v : Bool) (s : State) : (s.setValid v).out = s.out := rfl
@[simp] theorem setValid_valid (v : Bool) (s : State) : (s.setValid v).valid = v := rfl
@[simp] theorem setValid_loaded (v : Bool) (s : State) : (s.setValid v).loaded = s.loaded := rfl
@[simp] theorem setValid_blocksSinceLoad (v : Bool) (s : State) : (s.setValid v).blocksSinceLoad = s.blocksSinceLoad :=
  rfl
@[simp] theorem setValid_faults (v : Bool) (s : State) : (s.setValid v).faults = s.faults := rfl
@[simp] theorem setValid_freeSource (v : Bool) (s : State) : (s.setValid v).freeSource = s.freeSource := rfl
@[simp] theorem setValid_freeDraws (v : Bool) (s : State) : (s.setValid v).freeDraws = s.freeDraws := rfl
@[simp] theorem setValid_pending (v : Bool) (s : State) : (s.setValid v).pending = s.pending := rfl
@[simp] theorem setValid_results (v : Bool) (s : State) : (s.setValid v).results = s.results := rfl
@[simp] theorem setValid_blocksRead (v : Bool) (s : State) : (s.setValid v).blocksRead = s.blocksRead := rfl

@[simp] theorem setLoaded_config (s : State) : (s.setLoaded).config = s.config := rfl
@[simp] theorem setLoaded_key (s : State) : (s.setLoaded).key = s.key := rfl
@[simp] theorem setLoaded_counter (s : State) : (s.setLoaded).counter = s.counter := rfl
@[simp] theorem setLoaded_nonce (s : State) : (s.setLoaded).nonce = s.nonce := rfl
@[simp] theorem setLoaded_x (s : State) : (s.setLoaded).x = s.x := rfl
@[simp] theorem setLoaded_rnd (s : State) : (s.setLoaded).rnd = s.rnd := rfl
@[simp] theorem setLoaded_phase (s : State) : (s.setLoaded).phase = s.phase := rfl
@[simp] theorem setLoaded_out (s : State) : (s.setLoaded).out = s.out := rfl
@[simp] theorem setLoaded_valid (s : State) : (s.setLoaded).valid = s.valid := rfl
@[simp] theorem setLoaded_loaded (s : State) : (s.setLoaded).loaded = true := rfl
@[simp] theorem setLoaded_blocksSinceLoad (s : State) : (s.setLoaded).blocksSinceLoad = s.blocksSinceLoad := rfl
@[simp] theorem setLoaded_faults (s : State) : (s.setLoaded).faults = s.faults := rfl
@[simp] theorem setLoaded_freeSource (s : State) : (s.setLoaded).freeSource = s.freeSource := rfl
@[simp] theorem setLoaded_freeDraws (s : State) : (s.setLoaded).freeDraws = s.freeDraws := rfl
@[simp] theorem setLoaded_pending (s : State) : (s.setLoaded).pending = s.pending := rfl
@[simp] theorem setLoaded_results (s : State) : (s.setLoaded).results = s.results := rfl
@[simp] theorem setLoaded_blocksRead (s : State) : (s.setLoaded).blocksRead = s.blocksRead := rfl

@[simp] theorem returnResult_config (r : LoadResult) (s : State) : (returnResult r s).config = s.config := rfl
@[simp] theorem returnResult_key (r : LoadResult) (s : State) : (returnResult r s).key = s.key := rfl
@[simp] theorem returnResult_counter (r : LoadResult) (s : State) : (returnResult r s).counter = s.counter := rfl
@[simp] theorem returnResult_nonce (r : LoadResult) (s : State) : (returnResult r s).nonce = s.nonce := rfl
@[simp] theorem returnResult_x (r : LoadResult) (s : State) : (returnResult r s).x = s.x := rfl
@[simp] theorem returnResult_rnd (r : LoadResult) (s : State) : (returnResult r s).rnd = s.rnd := rfl
@[simp] theorem returnResult_phase (r : LoadResult) (s : State) : (returnResult r s).phase = s.phase := rfl
@[simp] theorem returnResult_out (r : LoadResult) (s : State) : (returnResult r s).out = s.out := rfl
@[simp] theorem returnResult_valid (r : LoadResult) (s : State) : (returnResult r s).valid = s.valid := rfl
@[simp] theorem returnResult_loaded (r : LoadResult) (s : State) : (returnResult r s).loaded = s.loaded := rfl
@[simp] theorem returnResult_blocksSinceLoad (r : LoadResult) (s : State) : (returnResult r s).blocksSinceLoad = s.blocksSinceLoad :=
  rfl
@[simp] theorem returnResult_faults (r : LoadResult) (s : State) : (returnResult r s).faults = s.faults := rfl
@[simp] theorem returnResult_freeSource (r : LoadResult) (s : State) : (returnResult r s).freeSource = s.freeSource := rfl
@[simp] theorem returnResult_freeDraws (r : LoadResult) (s : State) : (returnResult r s).freeDraws = s.freeDraws := rfl
@[simp] theorem returnResult_pending (r : LoadResult) (s : State) : (returnResult r s).pending = s.pending := rfl
@[simp] theorem returnResult_results (r : LoadResult) (s : State) : (returnResult r s).results = s.results ++ [r] := rfl
@[simp] theorem returnResult_blocksRead (r : LoadResult) (s : State) : (returnResult r s).blocksRead = s.blocksRead :=
  rfl

@[simp] theorem loadInstance_config (w : Words) (s : State) : (loadInstance w s).config = s.config := rfl
@[simp] theorem loadInstance_key (w : Words) (s : State) : (loadInstance w s).key = #v[w[4], w[5], w[6], w[7], w[8], w[9], w[10], w[11]] :=
  rfl
@[simp] theorem loadInstance_counter (w : Words) (s : State) : (loadInstance w s).counter = w[12] := rfl
@[simp] theorem loadInstance_nonce (w : Words) (s : State) : (loadInstance w s).nonce = #v[w[13], w[14], w[15]] := rfl
@[simp] theorem loadInstance_x (w : Words) (s : State) : (loadInstance w s).x = s.x := rfl
@[simp] theorem loadInstance_rnd (w : Words) (s : State) : (loadInstance w s).rnd = s.rnd := rfl
@[simp] theorem loadInstance_phase (w : Words) (s : State) : (loadInstance w s).phase = s.phase := rfl
@[simp] theorem loadInstance_out (w : Words) (s : State) : (loadInstance w s).out = s.out := rfl
@[simp] theorem loadInstance_valid (w : Words) (s : State) : (loadInstance w s).valid = false := rfl
@[simp] theorem loadInstance_loaded (w : Words) (s : State) : (loadInstance w s).loaded = true := rfl
@[simp] theorem loadInstance_blocksSinceLoad (w : Words) (s : State) : (loadInstance w s).blocksSinceLoad = 0 := rfl
@[simp] theorem loadInstance_faults (w : Words) (s : State) : (loadInstance w s).faults = s.faults := rfl
@[simp] theorem loadInstance_freeSource (w : Words) (s : State) : (loadInstance w s).freeSource = s.freeSource := rfl
@[simp] theorem loadInstance_freeDraws (w : Words) (s : State) : (loadInstance w s).freeDraws = s.freeDraws := rfl
@[simp] theorem loadInstance_pending (w : Words) (s : State) : (loadInstance w s).pending = s.pending := rfl
@[simp] theorem loadInstance_results (w : Words) (s : State) : (loadInstance w s).results = s.results := rfl
@[simp] theorem loadInstance_blocksRead (w : Words) (s : State) : (loadInstance w s).blocksRead = s.blocksRead := rfl

@[simp] theorem incrementCounter_config (s : State) : (incrementCounter s).config = s.config := rfl
@[simp] theorem incrementCounter_key (s : State) : (incrementCounter s).key = s.key := rfl
@[simp] theorem incrementCounter_counter (s : State) : (incrementCounter s).counter = (ctrInc s.config.counterMode s.counter s.nonce[0]).1 :=
  rfl
@[simp] theorem incrementCounter_nonce (s : State) : (incrementCounter s).nonce = s.nonce.set 0 (ctrInc s.config.counterMode s.counter s.nonce[0]).2 :=
  rfl
@[simp] theorem incrementCounter_x (s : State) : (incrementCounter s).x = s.x := rfl
@[simp] theorem incrementCounter_rnd (s : State) : (incrementCounter s).rnd = s.rnd := rfl
@[simp] theorem incrementCounter_phase (s : State) : (incrementCounter s).phase = s.phase := rfl
@[simp] theorem incrementCounter_out (s : State) : (incrementCounter s).out = s.out := rfl
@[simp] theorem incrementCounter_valid (s : State) : (incrementCounter s).valid = s.valid := rfl
@[simp] theorem incrementCounter_loaded (s : State) : (incrementCounter s).loaded = s.loaded := rfl
@[simp] theorem incrementCounter_blocksSinceLoad (s : State) : (incrementCounter s).blocksSinceLoad = s.blocksSinceLoad :=
  rfl
@[simp] theorem incrementCounter_faults (s : State) : (incrementCounter s).faults = s.faults := rfl
@[simp] theorem incrementCounter_freeSource (s : State) : (incrementCounter s).freeSource = s.freeSource := rfl
@[simp] theorem incrementCounter_freeDraws (s : State) : (incrementCounter s).freeDraws = s.freeDraws := rfl
@[simp] theorem incrementCounter_pending (s : State) : (incrementCounter s).pending = s.pending := rfl
@[simp] theorem incrementCounter_results (s : State) : (incrementCounter s).results = s.results := rfl
@[simp] theorem incrementCounter_blocksRead (s : State) : (incrementCounter s).blocksRead = s.blocksRead := rfl

@[simp] theorem finishBlock_config (s : State) : (finishBlock s).config = s.config := rfl
@[simp] theorem finishBlock_key (s : State) : (finishBlock s).key = s.key := rfl
@[simp] theorem finishBlock_counter (s : State) : (finishBlock s).counter = (ctrInc s.config.counterMode s.counter s.nonce[0]).1 :=
  rfl
@[simp] theorem finishBlock_nonce (s : State) : (finishBlock s).nonce = s.nonce.set 0 (ctrInc s.config.counterMode s.counter s.nonce[0]).2 :=
  rfl
@[simp] theorem finishBlock_x (s : State) : (finishBlock s).x = s.x := rfl
@[simp] theorem finishBlock_rnd (s : State) : (finishBlock s).rnd = s.rnd := rfl
@[simp] theorem finishBlock_phase (s : State) : (finishBlock s).phase = s.phase := rfl
@[simp] theorem finishBlock_out (s : State) : (finishBlock s).out = serialize s.config.byteOrder (feedback s.x s.inputState) :=
  rfl
@[simp] theorem finishBlock_valid (s : State) : (finishBlock s).valid = true := rfl
@[simp] theorem finishBlock_loaded (s : State) : (finishBlock s).loaded = s.loaded := rfl
@[simp] theorem finishBlock_blocksSinceLoad (s : State) : (finishBlock s).blocksSinceLoad = s.blocksSinceLoad + 1 := rfl
@[simp] theorem finishBlock_faults (s : State) : (finishBlock s).faults = s.faults := rfl
@[simp] theorem finishBlock_freeSource (s : State) : (finishBlock s).freeSource = s.freeSource := rfl
@[simp] theorem finishBlock_freeDraws (s : State) : (finishBlock s).freeDraws = s.freeDraws := rfl
@[simp] theorem finishBlock_pending (s : State) : (finishBlock s).pending = s.pending := rfl
@[simp] theorem finishBlock_results (s : State) : (finishBlock s).results = s.results := rfl
@[simp] theorem finishBlock_blocksRead (s : State) : (finishBlock s).blocksRead = s.blocksRead := rfl

@[simp] theorem acceptStep_config (s : State) : (acceptStep s).config = s.config := rfl
@[simp] theorem acceptStep_key (s : State) : (acceptStep s).key = s.key := rfl
@[simp] theorem acceptStep_counter (s : State) : (acceptStep s).counter = s.counter := rfl
@[simp] theorem acceptStep_nonce (s : State) : (acceptStep s).nonce = s.nonce := rfl
@[simp] theorem acceptStep_x (s : State) : (acceptStep s).x = s.inputState := rfl
@[simp] theorem acceptStep_rnd (s : State) : (acceptStep s).rnd = 0#5 := rfl
@[simp] theorem acceptStep_phase (s : State) : (acceptStep s).phase = .mix := rfl
@[simp] theorem acceptStep_out (s : State) : (acceptStep s).out = s.out := rfl
@[simp] theorem acceptStep_valid (s : State) : (acceptStep s).valid = false := rfl
@[simp] theorem acceptStep_loaded (s : State) : (acceptStep s).loaded = s.loaded := rfl
@[simp] theorem acceptStep_blocksSinceLoad (s : State) : (acceptStep s).blocksSinceLoad = s.blocksSinceLoad := rfl
@[simp] theorem acceptStep_faults (s : State) : (acceptStep s).faults = s.faults := rfl
@[simp] theorem acceptStep_freeSource (s : State) : (acceptStep s).freeSource = s.freeSource := rfl
@[simp] theorem acceptStep_freeDraws (s : State) : (acceptStep s).freeDraws = s.freeDraws := rfl
@[simp] theorem acceptStep_pending (s : State) : (acceptStep s).pending = s.pending := rfl
@[simp] theorem acceptStep_results (s : State) : (acceptStep s).results = s.results := rfl
@[simp] theorem acceptStep_blocksRead (s : State) : (acceptStep s).blocksRead = s.blocksRead := rfl

@[simp] theorem mixStep_config (s : State) : (mixStep s).config = s.config := rfl
@[simp] theorem mixStep_key (s : State) : (mixStep s).key = s.key := rfl
@[simp] theorem mixStep_counter (s : State) : (mixStep s).counter = s.counter := rfl
@[simp] theorem mixStep_nonce (s : State) : (mixStep s).nonce = s.nonce := rfl
@[simp] theorem mixStep_x (s : State) : (mixStep s).x = oneRound s.rnd.toNat s.x := rfl
@[simp] theorem mixStep_rnd (s : State) : (mixStep s).rnd = s.rnd + 1#5 := rfl
@[simp] theorem mixStep_phase (s : State) : (mixStep s).phase = (if s.rnd = 19#5 then .final else s.phase) := rfl
@[simp] theorem mixStep_out (s : State) : (mixStep s).out = s.out := rfl
@[simp] theorem mixStep_valid (s : State) : (mixStep s).valid = s.valid := rfl
@[simp] theorem mixStep_loaded (s : State) : (mixStep s).loaded = s.loaded := rfl
@[simp] theorem mixStep_blocksSinceLoad (s : State) : (mixStep s).blocksSinceLoad = s.blocksSinceLoad := rfl
@[simp] theorem mixStep_faults (s : State) : (mixStep s).faults = s.faults := rfl
@[simp] theorem mixStep_freeSource (s : State) : (mixStep s).freeSource = s.freeSource := rfl
@[simp] theorem mixStep_freeDraws (s : State) : (mixStep s).freeDraws = s.freeDraws := rfl
@[simp] theorem mixStep_pending (s : State) : (mixStep s).pending = s.pending := rfl
@[simp] theorem mixStep_results (s : State) : (mixStep s).results = s.results := rfl
@[simp] theorem mixStep_blocksRead (s : State) : (mixStep s).blocksRead = s.blocksRead := rfl

@[simp] theorem finalStep_config (s : State) : (finalStep s).config = s.config := rfl
@[simp] theorem finalStep_key (s : State) : (finalStep s).key = s.key := rfl
@[simp] theorem finalStep_counter (s : State) : (finalStep s).counter = (ctrInc s.config.counterMode s.counter s.nonce[0]).1 :=
  rfl
@[simp] theorem finalStep_nonce (s : State) : (finalStep s).nonce = s.nonce.set 0 (ctrInc s.config.counterMode s.counter s.nonce[0]).2 :=
  rfl
@[simp] theorem finalStep_x (s : State) : (finalStep s).x = s.x := rfl
@[simp] theorem finalStep_rnd (s : State) : (finalStep s).rnd = 0#5 := rfl
@[simp] theorem finalStep_phase (s : State) : (finalStep s).phase = .idle := rfl
@[simp] theorem finalStep_out (s : State) : (finalStep s).out = serialize s.config.byteOrder (feedback s.x s.inputState) :=
  rfl
@[simp] theorem finalStep_valid (s : State) : (finalStep s).valid = true := rfl
@[simp] theorem finalStep_loaded (s : State) : (finalStep s).loaded = s.loaded := rfl
@[simp] theorem finalStep_blocksSinceLoad (s : State) : (finalStep s).blocksSinceLoad = s.blocksSinceLoad + 1 := rfl
@[simp] theorem finalStep_faults (s : State) : (finalStep s).faults = s.faults := rfl
@[simp] theorem finalStep_freeSource (s : State) : (finalStep s).freeSource = s.freeSource := rfl
@[simp] theorem finalStep_freeDraws (s : State) : (finalStep s).freeDraws = s.freeDraws := rfl
@[simp] theorem finalStep_pending (s : State) : (finalStep s).pending = s.pending := rfl
@[simp] theorem finalStep_results (s : State) : (finalStep s).results = s.results := rfl
@[simp] theorem finalStep_blocksRead (s : State) : (finalStep s).blocksRead = s.blocksRead := rfl

@[simp] theorem resetEvent_config (s : State) : (resetEvent s).config = s.config := rfl
@[simp] theorem resetEvent_key (s : State) : (resetEvent s).key = State.noValueKey s.freeSource s.freeDraws := rfl
@[simp] theorem resetEvent_counter (s : State) : (resetEvent s).counter = State.noValueCounter s.freeSource s.freeDraws := rfl
@[simp] theorem resetEvent_nonce (s : State) : (resetEvent s).nonce = State.noValueNonce s.freeSource s.freeDraws := rfl
@[simp] theorem resetEvent_x (s : State) : (resetEvent s).x = State.noValueX s.freeSource s.freeDraws := rfl
@[simp] theorem resetEvent_rnd (s : State) : (resetEvent s).rnd = 0#5 := rfl
@[simp] theorem resetEvent_phase (s : State) : (resetEvent s).phase = .idle := rfl
@[simp] theorem resetEvent_out (s : State) : (resetEvent s).out = State.noValueOut s.freeSource s.freeDraws := rfl
@[simp] theorem resetEvent_valid (s : State) : (resetEvent s).valid = false := rfl
@[simp] theorem resetEvent_loaded (s : State) : (resetEvent s).loaded = false := rfl
@[simp] theorem resetEvent_blocksSinceLoad (s : State) : (resetEvent s).blocksSinceLoad = 0 := rfl
@[simp] theorem resetEvent_faults (s : State) : (resetEvent s).faults = s.faults := rfl
@[simp] theorem resetEvent_freeSource (s : State) : (resetEvent s).freeSource = s.freeSource := rfl
@[simp] theorem resetEvent_freeDraws (s : State) : (resetEvent s).freeDraws = s.freeDraws + 1 := rfl
@[simp] theorem resetEvent_pending (s : State) : (resetEvent s).pending = s.pending := rfl
@[simp] theorem resetEvent_results (s : State) : (resetEvent s).results = s.results := rfl
@[simp] theorem resetEvent_blocksRead (s : State) : (resetEvent s).blocksRead = s.blocksRead := rfl

end Sys2Proof.Machine
end

