-- ==== Sys2Proof/Laws/Encoding.lean ====
section
/-! SUPPORT. The byte lanes of the ports and the command word as numbers: what `lanes`, `encode` and `ksOutLanes` are,
said once. -/

namespace Sys2Proof

@[simp] theorem lanes_nil : lanes [] = 0 := rfl

theorem lanes_cons (b : Byte) (bs : List Byte) : lanes (b :: bs) = b.toNat + 256 * lanes bs := rfl

/-- `n` bytes make a number of `8n` bits. -/
theorem lanes_lt (bs : List Byte) : lanes bs < 2 ^ (8 * bs.length) := by
  induction bs with
  | nil => simp
  | cons b bs ih =>
    have hb := b.isLt
    have : 2 ^ (8 * (b :: bs).length) = 256 * 2 ^ (8 * bs.length) := by
      rw [List.length_cons, mul_add, pow_add, mul_comm]
      rfl
    rw [lanes_cons, this]
    omega

/-- Byte `i` of the number is byte `i` of the sequence. -/
theorem lanes_byte (bs : List Byte) (i : Nat) : lanes bs / 2 ^ (8 * i) % 2 ^ 8 = (bs[i]?.getD 0).toNat := by
  induction bs generalizing i with
  | nil => simp
  | cons b bs ih =>
    have hb := b.isLt
    cases i with
    | zero =>
      simp only [lanes_cons, Nat.mul_zero, pow_zero, Nat.div_one, List.getElem?_cons_zero, Option.getD_some]
      omega
    | succ i =>
      have hp : 2 ^ (8 * (i + 1)) = 256 * 2 ^ (8 * i) := by
        rw [mul_add, pow_add, mul_comm]
        rfl
      have hd : (b.toNat + 256 * lanes bs) / 256 = lanes bs := by omega
      rw [List.getElem?_cons_succ, ← ih, lanes_cons, hp, ← Nat.div_div_eq_div_mul, hd]

/-- The bytes of a number, read back as a number. -/
theorem lanes_range (n v : Nat) :
    lanes ((List.range n).map fun i => BitVec.ofNat 8 (v / 256 ^ i)) = v % 256 ^ n := by
  induction n generalizing v with
  | zero => simp [Nat.mod_one]
  | succ n ih =>
    have hf : ((fun i => BitVec.ofNat 8 (v / 256 ^ i)) ∘ Nat.succ) = fun i => BitVec.ofNat 8 (v / 256 / 256 ^ i) := by
      funext i
      simp only [Function.comp_apply, Nat.div_div_eq_div_mul, pow_succ, mul_comm]
    rw [List.range_succ_eq_map, List.map_cons, List.map_map, lanes_cons, hf, ih, pow_succ, mul_comm (256 ^ n), Nat.mod_mul]
    simp

/-- The command word of a LOAD that a word can carry, as the number of R91: no field overflows into the next. -/
theorem encode_load_toNat (key nonce : List Byte) (ctr : Word) (hk : key.length = 32) (hn : nonce.length = 12) :
    (encode (.load key nonce ctr)).toNat = 1 + 4 * lanes key + 2 ^ 258 * lanes nonce + 2 ^ 354 * ctr.toNat := by
  have h1 := lanes_lt key
  have h2 := lanes_lt nonce
  have h3 := ctr.isLt
  rw [hk] at h1
  rw [hn] at h2
  norm_num at h1 h2 h3
  rw [encode, BitVec.toNat_ofNat, Nat.mod_eq_of_lt]
  omega

/-- Byte `i` of the output port. -/
theorem Machine.ksOutLanes_byte (b : Block) (i : Fin 64) : (Machine.ksOutLanes b).extractLsb' (8 * i.val) 8 = b[i] := by
  have hb := lanes_byte b.toList i.val
  have hl := lanes_lt b.toList
  rw [Vector.length_toList] at hl
  apply BitVec.eq_of_toNat_eq
  simp only [Machine.ksOutLanes]
  rw [BitVec.extractLsb'_toNat, BitVec.toNat_ofNat, Nat.mod_eq_of_lt hl, Nat.shiftRight_eq_div_pow, hb]
  simp

end Sys2Proof
end

