-- ==== Sys2Proof/Laws/Ops.lean ====
section
/-! SUPPORT. What each shared operation does, said once: the fault set, the input state, READ, and the outcomes of `exec` and
`step`. -/

namespace Sys2Proof.Machine

/-! ### The fault set -/

/-- The rank tells faults apart. -/
theorem Fault.rank_injective {f g : Fault} (h : f.rank = g.rank) : f = g := by
  rcases f with c | c | c | _ <;> rcases g with d | d | d | _ <;>
    (try cases c) <;> (try cases d) <;> first | rfl | exact absurd h (by decide)

@[simp] theorem mem_insertFault (f g : Fault) (fs : List Fault) : g ∈ insertFault f fs ↔ g = f ∨ g ∈ fs := by
  induction fs with
  | nil => simp [insertFault]
  | cons h hs ih =>
    unfold insertFault
    split
    · simp
    · split
      · rename_i heq
        have : f = h := Fault.rank_injective heq
        subst this
        simp
      · simp only [List.mem_cons, ih]
        tauto

/-- Adding a fault keeps the listing in strictly rising rank. -/
theorem insertFault_canonical (f : Fault) {fs : List Fault} (h : faultsCanonical fs) :
    faultsCanonical (insertFault f fs) := by
  induction fs with
  | nil => simp [insertFault, faultsCanonical]
  | cons g gs ih =>
    obtain ⟨hg, hgs⟩ := List.pairwise_cons.mp h
    unfold insertFault
    split
    · rename_i hlt
      refine List.pairwise_cons.mpr ⟨fun x hx => ?_, h⟩
      rcases List.mem_cons.mp hx with rfl | hx
      · exact hlt
      · exact lt_trans hlt (hg x hx)
    · split
      · exact h
      · refine List.pairwise_cons.mpr ⟨fun x hx => ?_, ih hgs⟩
        rcases (mem_insertFault f x gs).mp hx with rfl | hx
        · omega
        · exact hg x hx

theorem insertFault_ne_nil (f : Fault) (fs : List Fault) : insertFault f fs ≠ [] := by
  intro h
  have : f ∈ insertFault f fs := (mem_insertFault f f fs).mpr (.inl rfl)
  simp [h] at this

/-! ### The input state -/

theorem inputState_congr {s t : State} (hc : t.config = s.config) (hk : t.key = s.key) (hn : t.counter = s.counter)
    (ho : t.nonce = s.nonce) : t.inputState = s.inputState := by
  simp [State.inputState, hc, hk, hn, ho]

@[simp] theorem inputState_recordFault (f : Fault) (s : State) : (recordFault f s).inputState = s.inputState := rfl

@[simp] theorem inputState_acceptStep (s : State) : (acceptStep s).inputState = s.inputState := rfl

@[simp] theorem inputState_mixStep (s : State) : (mixStep s).inputState = s.inputState := rfl

@[simp] theorem inputState_returnResult (r : LoadResult) (s : State) : (returnResult r s).inputState = s.inputState := rfl

/-- A LOAD's write reads back, with the hardwired constants in words 0 to 3. -/
theorem inputState_loadInstance (c : Config) (k : Vector Word 8) (ctr : Word) (n : Vector Word 3) (s : State)
    (hc : s.config = c) : (loadInstance (assemble c.sigma k ctr n) s).inputState = assemble c.sigma k ctr n := by
  subst hc
  simp [State.inputState, assemble]

/-- The words of a register file of 3, listed. -/
theorem vector3_eta (v : Vector Word 3) : #v[v[0], v[1], v[2]] = v := by
  ext i h
  rcases i with _ | _ | _ | i
  · rfl
  · rfl
  · rfl
  · omega

/-- Writing word 13 leaves words 14 and 15. -/
theorem nonce_set_zero (v : Vector Word 3) (w : Word) : v.set 0 w = #v[w, v[1], v[2]] := by
  ext i h
  rcases i with _ | _ | _ | i
  · simp
  · simp
  · simp
  · omega

/-! ### READ -/

theorem hostRead_valid {s : State} (h : s.valid = true) : hostRead s = { s with blocksRead := s.blocksRead ++ [s.out] } := by
  simp [hostRead, State.readBlock, h]

theorem hostRead_invalid {s : State} (h : s.valid = false) : hostRead s = recordFault .readInvalid s := by
  simp [hostRead, State.readBlock, h]

/-- A READ lists a block or records a fault, and does nothing else. -/
theorem hostRead_cases (s : State) :
    (s.valid = true ∧ hostRead s = { s with blocksRead := s.blocksRead ++ [s.out] }) ∨
    (s.valid = false ∧ hostRead s = recordFault .readInvalid s) := by
  by_cases h : s.valid = true
  · exact .inl ⟨h, hostRead_valid h⟩
  · have h' := Bool.not_eq_true _ ▸ h
    exact .inr ⟨h', hostRead_invalid h'⟩

/-! ### The commands -/

theorem busy_eq_false {s : State} : s.busy = false ↔ s.phase = .idle := by
  cases h : s.phase <;> simp [State.busy, h]

theorem busy_eq_true {s : State} : s.busy = true ↔ s.phase ≠ .idle := by
  cases h : s.phase <;> simp [State.busy, h]

theorem bytesOfLength_toList {n : Nat} (v : Vector Byte n) : bytesOfLength n v.toList = some v := by
  unfold bytesOfLength
  rw [dif_pos (by simp)]
  congr 1

theorem bytesOfLength_none {n : Nat} {bs : List Byte} (h : bs.length ≠ n) : bytesOfLength n bs = none := by
  simp [bytesOfLength, h]

/-- Everything LOAD can do. -/
theorem execLoad_cases (key nonce : List Byte) (ctr : Word) (s : State) :
    (s.phase ≠ .idle ∧ execLoad key nonce ctr s = .next (recordFault (.busy .load) s)) ∨
    (s.phase = .idle ∧ ¬(key.length = 32 ∧ nonce.length = 12) ∧
      execLoad key nonce ctr s = .next (returnResult .invalidKeyMaterial s)) ∨
    (s.phase = .idle ∧ ∃ (k : Vector Byte 32) (n : Vector Byte 12), k.toList = key ∧ n.toList = nonce ∧
      execLoad key nonce ctr s = .next (returnResult .ok (loadInstance (initState s.config k n ctr) s))) := by
  by_cases hb : s.phase = .idle
  · have hb' : s.busy = false := busy_eq_false.mpr hb
    by_cases hk : key.length = 32
    · by_cases hn : nonce.length = 12
      · refine .inr (.inr ⟨hb, ⟨key.toArray, by simpa using hk⟩, ⟨nonce.toArray, by simpa using hn⟩, by simp, by simp, ?_⟩)
        simp [execLoad, hb', bytesOfLength, hk, hn]
      · refine .inr (.inl ⟨hb, by simp [hn], ?_⟩)
        simp [execLoad, hb', bytesOfLength_none hn]
    · refine .inr (.inl ⟨hb, by simp [hk], ?_⟩)
      simp [execLoad, hb', bytesOfLength_none hk]
  · exact .inl ⟨hb, by simp [execLoad, busy_eq_true.mpr hb]⟩

/-- Everything GEN can do at the transaction level. -/
theorem execGen_cases (s : State) :
    (s.phase ≠ .idle ∧ execGen s = .next (recordFault (.busy .gen) s)) ∨
    (s.phase = .idle ∧ s.loaded = false ∧ execGen s = .next (recordFault (.notLoaded .gen) s)) ∨
    (s.phase = .idle ∧ s.loaded = true ∧ execGen s = .next (finishBlock { s with x := rounds20 s.inputState })) := by
  by_cases hb : s.phase = .idle
  · have hb' : s.busy = false := busy_eq_false.mpr hb
    cases hl : s.loaded
    · exact .inr (.inl ⟨hb, rfl, by simp [execGen, hb', hl]⟩)
    · exact .inr (.inr ⟨hb, rfl, by simp [execGen, hb', hl]⟩)
  · exact .inl ⟨hb, by simp [execGen, busy_eq_true.mpr hb]⟩

/-- While a GEN is in progress, a beat does nothing but record its fault. -/
theorem exec_busy (i : Instr) {s : State} (h : s.phase ≠ .idle) :
    exec i s = .next s ∧ i = .nop ∨ ∃ f, exec i s = .next (recordFault f s) ∧ beatOutcome i s = .fault f := by
  have hb := busy_eq_true.mpr h
  cases i with
  | nop => exact .inl ⟨rfl, rfl⟩
  | load key nonce ctr => exact .inr ⟨.busy .load, by simp [exec, execLoad, hb], by simp [beatOutcome, hb]⟩
  | gen => exact .inr ⟨.busy .gen, by simp [exec, execGen, hb], by simp [beatOutcome, hb]⟩
  | rsvd => exact .inr ⟨.reserved .reserved, rfl, rfl⟩

/-! ### The cycle and the step -/

/-- A fault record and the sequencer's step do not touch each other. -/
theorem sequencerStep_recordFault (f : Fault) (s : State) :
    sequencerStep (recordFault f s) = recordFault f (sequencerStep s) := by
  unfold sequencerStep
  rw [recordFault_phase]
  cases s.phase <;> rfl

@[simp] theorem sequencerStep_faults (s : State) : (sequencerStep s).faults = s.faults := by
  unfold sequencerStep
  cases s.phase <;> rfl

@[simp] theorem sequencerStep_config (s : State) : (sequencerStep s).config = s.config := by
  unfold sequencerStep
  cases s.phase <;> rfl

@[simp] theorem sequencerStep_pending (s : State) : (sequencerStep s).pending = s.pending := by
  unfold sequencerStep
  cases s.phase <;> rfl

theorem sequencerStep_idle {s : State} (h : s.phase = .idle) : sequencerStep s = s := by simp [sequencerStep, h]

theorem sequencerStep_mix {s : State} (h : s.phase = .mix) : sequencerStep s = mixStep s := by simp [sequencerStep, h]

theorem sequencerStep_final {s : State} (h : s.phase = .final) : sequencerStep s = finalStep s := by
  simp [sequencerStep, h]

/-- A fault recorded beside the sequencer's step, as one record update. -/
theorem recordFault_sequencerStep (f : Fault) (s : State) :
    recordFault f (sequencerStep s) = { sequencerStep s with faults := insertFault f s.faults } := by
  unfold recordFault
  rw [sequencerStep_faults]

/-- A cycle without reset and READ while a GEN is in progress: the sequencer's step, and perhaps a fault. -/
theorem clockCycle_busy (b : Beat) {s : State} (h : s.phase ≠ .idle) :
    clockCycle false b false s = .next (sequencerStep s) ∧ b.instr = .nop ∨
    ∃ f, clockCycle false b false s = .next (recordFault f (sequencerStep s)) ∧ beatOutcome b.instr s = .fault f := by
  have hb := busy_eq_true.mpr h
  have hc : clockCycle false b false s = andThen (exec b.instr s) sequencerStep := by
    simp [clockCycle, hb, busyCycle]
  rcases exec_busy b.instr h with ⟨he, hi⟩ | ⟨f, he, hf⟩
  · exact .inl ⟨by rw [hc, he]; rfl, hi⟩
  · exact .inr ⟨f, by rw [hc, he]; simp [andThen, sequencerStep_recordFault], hf⟩

/-- A quiet cycle is the sequencer's own step, in every phase. -/
theorem clockCycle_nop (s : State) : clockCycle false (.call .nop) false s = .next (sequencerStep s) := by
  by_cases h : s.phase = .idle
  · simp [clockCycle, busy_eq_false.mpr h, Beat.instr, idleCycle, exec, execNop, sequencerStep, h]
  · simp [clockCycle, busy_eq_true.mpr h, Beat.instr, busyCycle, exec, execNop, andThen]

theorem step_nil {s : State} (h : s.pending = []) : step s = .next (sequencerStep s) := by
  simp [step, h, quietCycle, clockCycle_nop]

theorem step_cons {s : State} {e : HostEvent} {rest : List HostEvent} (h : s.pending = e :: rest) :
    step s = present e { s with pending := rest } := by
  simp [step, h]

/-- The step in terms of the event it performs. -/
theorem step_eq (s : State) : step s = present s.nextEvent { s with pending := s.pending.tail } := by
  cases h : s.pending with
  | nil =>
    have : ({ s with pending := [] } : State) = s := by rw [← h]
    simp [step, h, State.nextEvent, quietCycle, nopCycle, present, this]
  | cons e rest => simp [step, h, State.nextEvent]

/-! ### Runs -/

theorem run_succ {s t : State} (n : Nat) (h : step s = .next t) : run (n + 1) s = run n t := by simp [run, h]

/-- `run` is the host interface's run of the machine. -/
theorem core_run_eq (n : Nat) (s : State) : Sys2Proof.core.run n s = run n s := by
  induction n generalizing s with
  | zero => rfl
  | succ n ih =>
    have hs : Sys2Proof.core.step s = step s := rfl
    simp only [Host.Core.run, run, hs]
    cases step s with
    | next t => exact ih t
    | fault r => rfl
    | refused r => rfl

/-- Running the first event, then the rest. -/
theorem runEvents_cons {e : HostEvent} {es : List HostEvent} {s t : State}
    (h : present e { s with pending := es } = .next t) (ht : t.pending = es) : runEvents (e :: es) s = runEvents es t := by
  have h' : step { s with pending := e :: es } = .next t := h
  have ht' : { t with pending := es } = t := by rw [← ht]
  unfold runEvents
  rw [List.length_cons, run_succ _ h', ht']

/-- Running a command first. -/
theorem runEvents_command {b : Beat} {es : List HostEvent} {s t : State}
    (h : exec b.instr { s with pending := es } = .next t) (ht : t.pending = es) :
    runEvents (.command b :: es) s = runEvents es t :=
  runEvents_cons h ht

/-- Running a clock cycle first. -/
theorem runEvents_cycle {rst read : Bool} {b : Beat} {es : List HostEvent} {s t : State}
    (h : clockCycle rst b read { s with pending := es } = .next t) (ht : t.pending = es) :
    runEvents (.cycle rst b read :: es) s = runEvents es t :=
  runEvents_cons h ht

/-- Running a READ first. -/
theorem runEvents_read {es : List HostEvent} {s t : State}
    (h : hostRead { s with pending := es } = t) (ht : t.pending = es) : runEvents (.read :: es) s = runEvents es t :=
  runEvents_cons (congrArg Host.Outcome.next h) ht

theorem runEvents_nil (s : State) : runEvents [] s = .next { s with pending := [] } := rfl

end Sys2Proof.Machine
end

