-- ==== Sys2Proof/Laws/PerInstr.lean ====
section
/-! SUPPORT. Statements made for each instruction as syntax, one lemma per constructor. Family `EncodedCommandCode`: the
field `cmd` of the encoded word is the command's code (30_encoding.md R80, R81), whatever the operands. -/

namespace Sys2Proof.Laws.EncodedCommandCode

/-- The encoding puts the command's code into bits `[1:0]`. -/
def Statement (i : Instr) : Prop := cmdField (encode i) = i.command.code

theorem nop : Statement .nop := by
  unfold Statement
  decide

theorem load (key nonce : List Byte) (ctr : Word) : Statement (.load key nonce ctr) := by
  have h : ∀ a b c : Nat, (1 + 4 * a + 2 ^ 258 * b + 2 ^ 354 * c) % 2 ^ 386 % 4 = 1 := by
    intro a b c
    omega
  apply BitVec.eq_of_toNat_eq
  rw [cmdField, BitVec.extractLsb'_toNat, encode, BitVec.toNat_ofNat]
  exact h _ _ _

theorem gen : Statement .gen := by
  unfold Statement
  decide

theorem rsvd : Statement .rsvd := by
  unfold Statement
  decide

end Sys2Proof.Laws.EncodedCommandCode
end

