-- ==== Sys2Proof/Laws/Reuse.lean ====
section
/-! SUPPORT. Which input states a run of GENs uses: the link between the host's duty `noReuse` and the counter. -/

namespace Sys2Proof.Machine

/-- Finishing a block changes the input state by the counter increment alone, whatever the working register holds. -/
theorem inputState_finishBlock (w : Words) (s : State) :
    (finishBlock { s with x := w }).inputState = (incrementCounter s).inputState :=
  inputState_congr rfl rfl rfl rfl

/-- What a GEN leaves behind, as far as the next GEN can tell. -/
theorem execGen_next {s : State} (hi : s.phase = .idle) (hl : s.loaded = true) :
    ∃ t, exec .gen s = .next t ∧ t.phase = .idle ∧ t.loaded = true ∧ t.pending = s.pending ∧
      t.blocksSinceLoad = s.blocksSinceLoad + 1 ∧ t.inputState = (incrementCounter s).inputState := by
  rcases execGen_cases s with ⟨h, _⟩ | ⟨_, h, _⟩ | ⟨_, _, h⟩
  · exact absurd hi h
  · simp [hl] at h
  · generalize rounds20 s.inputState = w at h
    exact ⟨_, h, hi, hl, rfl, rfl, inputState_finishBlock w s⟩

/-- A step that completes a block adds its input state, and the run goes on from there. -/
theorem blockInputs_gen {s : State} {es : List HostEvent} (n : Nat) (hp : s.pending = genCommand :: es)
    (hi : s.phase = .idle) (hl : s.loaded = true) :
    ∃ t, step s = .next t ∧ t.phase = .idle ∧ t.loaded = true ∧ t.pending = es ∧
      t.inputState = (incrementCounter s).inputState ∧
      blockInputs (n + 1) s = s.inputState :: blockInputs n t := by
  obtain ⟨t, ht, h1, h2, h3, h4, h5⟩ := execGen_next (s := { s with pending := es }) hi hl
  have hs : step s = .next t := by rw [step_cons hp]; exact ht
  refine ⟨t, hs, h1, h2, h3, h5, ?_⟩
  simp only [blockInputs, hs]
  exact if_pos h4

end Sys2Proof.Machine
end

