-- ==== Sys2Proof/Laws/Rounds.lean ====
section
/-! SUPPORT. The round schedule counted round by round, and the undoing of the counter increment. -/

namespace Sys2Proof.Machine

theorem roundsUpTo_succ (r : Nat) (x : Words) : roundsUpTo (r + 1) x = oneRound r (roundsUpTo r x) := rfl

theorem blockFn_eq (o : ByteOrder) (w : Words) : blockFn o w = serialize o (feedback (rounds20 w) w) := rfl

theorem doubleRounds_eq_roundsUpTo (n m : Nat) (x : Words) : doubleRounds n (roundsUpTo (2 * m) x) = roundsUpTo (2 * (m + n)) x := by
  induction n generalizing m with
  | zero => rfl
  | succ n ih =>
    have h1 : (2 * m + 1) % 2 ≠ 0 := by omega
    have h2 : doubleRound (roundsUpTo (2 * m) x) = roundsUpTo (2 * (m + 1)) x := by
      show _ = oneRound (2 * m + 1) (oneRound (2 * m) (roundsUpTo (2 * m) x))
      rw [oneRound, if_neg h1, oneRound, if_pos (Nat.mul_mod_right 2 m), doubleRound]
    rw [doubleRounds, h2, ih]
    congr 1
    omega

/-- The increment of the counter word can be undone. -/
theorem sub32_add32 (c : Word) : sub32 (add32 c 1#32) 1#32 = c := by simp [sub32, add32]

@[simp] theorem assemble_set_counter (g : Vector Word 4) (k : Vector Word 8) (c c' : Word) (n : Vector Word 3) :
    (assemble g k c n).set 12 c' = assemble g k c' n := rfl

@[simp] theorem assemble_set_nonce (g : Vector Word 4) (k : Vector Word 8) (c w : Word) (n : Vector Word 3) :
    (assemble g k c n).set 13 w = assemble g k c (n.set 0 w) := by
  rw [nonce_set_zero]
  rfl

/-- After a block is finished, the input state it started from can be read back. -/
theorem previousInput_finishBlock (s : State) : (finishBlock s).previousInput = s.inputState := by
  have hc : ∀ m : CounterMode, ∀ c n : Word, sub32 (ctrInc m c n).1 1#32 = c := by
    intro m c n
    cases m <;> exact sub32_add32 c
  have hn : ∀ m : CounterMode, ∀ c : Word, ∀ v : Vector Word 3,
      (match m with
        | .wrap32 => v.set 0 (ctrInc m c v[0]).2
        | .carry64 => (v.set 0 (ctrInc m c v[0]).2).set 0
            (if (ctrInc m c v[0]).1 = 0#32 then sub32 (v.set 0 (ctrInc m c v[0]).2)[0] 1#32
              else (v.set 0 (ctrInc m c v[0]).2)[0])) = v := by
    intro m c v
    cases m
    · simp [ctrInc]
    · by_cases hz : add32 c 1#32 = 0#32 <;> simp [ctrInc, hz, sub32_add32]
  have hp : ∀ u : State, u.previousInput = assemble u.config.sigma u.key (sub32 u.counter 1#32)
      (match u.config.counterMode with
        | .wrap32 => u.nonce
        | .carry64 => u.nonce.set 0 (if u.counter = 0#32 then sub32 u.nonce[0] 1#32 else u.nonce[0])) := by
    intro u
    unfold State.previousInput State.inputState
    cases u.config.counterMode <;> simp
  rw [hp]
  exact congrArg₂ (assemble s.config.sigma s.key) (hc s.config.counterMode s.counter s.nonce[0])
    (hn s.config.counterMode s.counter s.nonce)

end Sys2Proof.Machine
end

