-- ==== Sys2Proof/Laws/Step.lean ====
section
/-! SUPPORT. Everything a step can do, said once: the invariants and the frames of whole steps are derived from
`step_cases`. -/

namespace Sys2Proof.Machine

/-- The state a step works on: the performed event is gone, and the READ of a cycle or a READ event is done. It differs from
`s` in `pending`, `blocksRead` and `faults` only. -/
def SampledFrom (s r : State) : Prop :=
  r = { s with pending := s.pending.tail } ∨ r = hostRead { s with pending := s.pending.tail }

/-- What the READ of a cycle leaves alone. -/
structure SameBlock (s r : State) : Prop where
  config : r.config = s.config
  key : r.key = s.key
  counter : r.counter = s.counter
  nonce : r.nonce = s.nonce
  x : r.x = s.x
  rnd : r.rnd = s.rnd
  phase : r.phase = s.phase
  out : r.out = s.out
  valid : r.valid = s.valid
  loaded : r.loaded = s.loaded
  blocksSinceLoad : r.blocksSinceLoad = s.blocksSinceLoad
  freeSource : r.freeSource = s.freeSource
  freeDraws : r.freeDraws = s.freeDraws
  results : r.results = s.results
  faults : r.faults = s.faults ∨ r.faults = insertFault .readInvalid s.faults

theorem SampledFrom.sameBlock {s r : State} (h : SampledFrom s r) : SameBlock s r := by
  rcases h with rfl | rfl
  · exact ⟨rfl, rfl, rfl, rfl, rfl, rfl, rfl, rfl, rfl, rfl, rfl, rfl, rfl, rfl, .inl rfl⟩
  · rcases hostRead_cases { s with pending := s.pending.tail } with ⟨_, h⟩ | ⟨_, h⟩ <;> rw [h]
    · exact ⟨rfl, rfl, rfl, rfl, rfl, rfl, rfl, rfl, rfl, rfl, rfl, rfl, rfl, rfl, .inl rfl⟩
    · exact ⟨rfl, rfl, rfl, rfl, rfl, rfl, rfl, rfl, rfl, rfl, rfl, rfl, rfl, rfl, .inr rfl⟩

theorem SameBlock.inputState {s r : State} (h : SameBlock s r) : r.inputState = s.inputState :=
  inputState_congr h.config h.key h.counter h.nonce

/-- The effects that a step can have on the state it works on. -/
inductive Effect (e : HostEvent) (r : State) : State → Prop
  /-- Nothing: a READ, or a NOP. -/
  | nothing : resets e = false → Effect e r r
  /-- A beat only records its fault. -/
  | fault (f : Fault) : resets e = false → Effect e r (recordFault f r)
  /-- A LOAD of a wrong length. -/
  | rejected (key nonce : List Byte) (c : Word) : resets e = false → presented e = some (.load key nonce c) →
      ¬(key.length = 32 ∧ nonce.length = 12) → r.phase = .idle → Effect e r (returnResult .invalidKeyMaterial r)
  /-- A successful LOAD. -/
  | loaded (k : Vector Byte 32) (n : Vector Byte 12) (c : Word) : resets e = false →
      presented e = some (.load k.toList n.toList c) → r.phase = .idle →
      Effect e r (returnResult .ok (loadInstance (initState r.config k n c) r))
  /-- A GEN as one atomic step. -/
  | block : resets e = false → presented e = some .gen → r.phase = .idle → r.loaded = true →
      Effect e r (finishBlock { r with x := rounds20 r.inputState })
  /-- The accept step of a GEN. -/
  | accepted : resets e = false → presented e = some .gen → r.phase = .idle → r.loaded = true → Effect e r (acceptStep r)
  /-- The sequencer's own step. -/
  | sequenced : resets e = false → r.phase ≠ .idle → Effect e r (sequencerStep r)
  /-- The sequencer's own step, with a beat that faults. -/
  | sequencedFault (f : Fault) : resets e = false → r.phase ≠ .idle → Effect e r (recordFault f (sequencerStep r))
  /-- The reset event. -/
  | reset : resets e = true → Effect e r (resetEvent r)

/-- A command as one atomic step has one of the effects. -/
theorem exec_effect {i : Instr} {e : HostEvent} (he : resets e = false) (hp : presented e = some i) (r : State) :
    ∃ t, exec i r = .next t ∧ Effect e r t := by
  cases i with
  | nop => exact ⟨r, rfl, .nothing he⟩
  | rsvd => exact ⟨_, rfl, .fault _ he⟩
  | gen =>
    rcases execGen_cases r with ⟨_, h⟩ | ⟨_, _, h⟩ | ⟨h1, h2, h⟩
    · exact ⟨_, h, .fault _ he⟩
    · exact ⟨_, h, .fault _ he⟩
    · exact ⟨_, h, .block he hp h1 h2⟩
  | load k n c =>
    rcases execLoad_cases k n c r with ⟨_, h⟩ | ⟨h1, hw, h⟩ | ⟨h1, k', n', rfl, rfl, h⟩
    · exact ⟨_, h, .fault _ he⟩
    · exact ⟨_, h, .rejected k n c he hp hw h1⟩
    · exact ⟨_, h, .loaded k' n' c he hp h1⟩

/-- A clock cycle has one of the effects, on the state in which its READ is done. -/
theorem clockCycle_effect (rst : Bool) (b : Beat) (read : Bool) (s : State) :
    ∃ t, clockCycle rst b read s = .next t ∧
      Effect (.cycle rst b read) (if read then hostRead s else s) t := by
  have hphase : (if read then hostRead s else s).phase = s.phase := by
    cases read
    · rfl
    · rcases hostRead_cases s with ⟨_, h⟩ | ⟨_, h⟩ <;> simp [h]
  generalize hr : (if read then hostRead s else s) = r at hphase
  cases rst with
  | true => exact ⟨_, by simp [clockCycle, hr], .reset rfl⟩
  | false =>
    have he : resets (.cycle false b read) = false := rfl
    have hp : presented (.cycle false b read) = some b.instr := rfl
    by_cases h : s.phase = .idle
    · have hc : clockCycle false b read s = idleCycle b.instr r := by simp [clockCycle, busy_eq_false.mpr h, hr]
      obtain ⟨t, ht, hE⟩ := exec_effect he hp r
      rw [hc]
      cases hi : b.instr with
      | gen =>
        by_cases hl : r.loaded = true
        · exact ⟨_, by simp [idleCycle, hl], .accepted he (hi ▸ hp) (hphase.trans h) hl⟩
        · exact ⟨t, by rw [← ht, hi]; simp [idleCycle, hl], hE⟩
      | nop => exact ⟨t, by rw [← ht, hi]; rfl, hE⟩
      | load k n c => exact ⟨t, by rw [← ht, hi]; rfl, hE⟩
      | rsvd => exact ⟨t, by rw [← ht, hi]; rfl, hE⟩
    · have hc : clockCycle false b read s = andThen (exec b.instr r) sequencerStep := by
        simp [clockCycle, busy_eq_true.mpr h, hr, busyCycle]
      have hn : r.phase ≠ .idle := by rw [hphase]; exact h
      rcases exec_busy b.instr hn with ⟨hx, _⟩ | ⟨f, hx, _⟩
      · exact ⟨_, by rw [hc, hx]; rfl, .sequenced he hn⟩
      · exact ⟨_, by rw [hc, hx]; simp [andThen, sequencerStep_recordFault], .sequencedFault f he hn⟩

/-- Everything a step can do. -/
theorem step_effect (s : State) : ∃ r t, SampledFrom s r ∧ step s = .next t ∧ Effect s.nextEvent r t := by
  rw [step_eq]
  cases s.nextEvent with
  | command b =>
    obtain ⟨t, ht, hE⟩ := exec_effect (e := .command b) rfl rfl { s with pending := s.pending.tail }
    exact ⟨_, t, .inl rfl, ht, hE⟩
  | read => exact ⟨_, _, .inr rfl, rfl, .nothing rfl⟩
  | reset => exact ⟨_, _, .inl rfl, rfl, .reset rfl⟩
  | cycle rst b read =>
    obtain ⟨t, ht, hE⟩ := clockCycle_effect rst b read { s with pending := s.pending.tail }
    refine ⟨_, t, ?_, ht, hE⟩
    cases read
    · exact .inl rfl
    · exact .inr rfl

/-- If a step answers `t`, then `t` is one of the effects. -/
theorem step_cases {s t : State} (h : step s = .next t) : ∃ r, SampledFrom s r ∧ Effect s.nextEvent r t := by
  obtain ⟨r, t', hr, ht, hE⟩ := step_effect s
  cases ht.symm.trans h
  exact ⟨r, hr, hE⟩

end Sys2Proof.Machine
end

