-- ==== Sys2Proof/Tests/Slice0.lean ====
section
/-! SUPPORT. Tests of the model's own work, and for every obligation that has hypotheses a witness that meets them. Expected
values come from spec/95_test_vectors.md, whose vector is named in each comment. -/

namespace Sys2Proof.Tests
open Sys2Proof Sys2Proof.Machine

/-! ### Helpers -/

/-- A state with every register given and no free value in it. -/
def small (phase : Phase) (rnd : BitVec 5) (valid loaded : Bool) (pending : List HostEvent) : State where
  config          := Config.default
  key             := Vector.replicate 8 0
  counter         := 0
  nonce           := Vector.replicate 3 0
  x               := Vector.replicate 16 0
  rnd             := rnd
  phase           := phase
  out             := Vector.replicate 64 0
  valid           := valid
  loaded          := loaded
  blocksSinceLoad := 0
  faults          := []
  freeSource      := 0
  freeDraws       := 1
  pending         := pending
  results         := []
  blocksRead      := []

/-- Before any LOAD. -/
def unloaded : State := small .idle 0#5 false false []

/-- After the LOAD of V-LOAD-3. -/
def loadedZero : State := small .idle 0#5 false true []

/-- A GEN in a MIX step, and one in its FINAL step. -/
def mixing (rnd : BitVec 5) (pending : List HostEvent) : State := small .mix rnd false true pending
def finalCycle (pending : List HostEvent) : State := small .final 20#5 false true pending

/-- A GEN in its second MIX step, with the working register as the sequencer has it there. -/
def midGen : State := { mixing 1#5 [] with x := columnRound loadedZero.inputState }

def zeroKey : List Byte := List.replicate 32 0
def zeroNonce : List Byte := List.replicate 12 0
def countingKey : List Byte := (List.range 32).map fun i => BitVec.ofNat 8 i
def rfcNonce : List Byte := [0, 0, 0, 9, 0, 0, 0, 0x4a, 0, 0, 0, 0]

/-- What a test says of the next state of an outcome. -/
def nextIs (o : Host.Outcome State Fault Refusal) (p : State → Bool) : Bool :=
  match o with
  | .next s => p s
  | .fault _ => false
  | .refused _ => false

/-! ### WellFormed: each check refuses an ill-formed term (30_encoding.md R83) -/

theorem test_wellFormed_accepts : (Instr.load countingKey rfcNonce 1).wellFormed = true := by decide
theorem test_wellFormed_key_31 : (Instr.load (List.replicate 31 0) zeroNonce 0).wellFormed = false := by decide
theorem test_wellFormed_key_33 : (Instr.load (List.replicate 33 0) zeroNonce 0).wellFormed = false := by decide
theorem test_wellFormed_nonce_11 : (Instr.load zeroKey (List.replicate 11 0) 0).wellFormed = false := by decide
theorem test_wellFormed_nonce_13 : (Instr.load zeroKey (List.replicate 13 0) 0).wellFormed = false := by decide

/-! ### Decode: words written out from the encoding (30_encoding.md R80, R81, R91) -/

/-- V-ENC-1, V-DEC-1. -/
theorem test_decode_nop : decode 0x0#386 = .nop ∧ decode 0x4#386 = .nop := by decide
/-- V-ENC-2, V-DEC-2. -/
theorem test_decode_gen : decode 0x2#386 = .gen ∧ decode 0x6#386 = .gen := by decide
/-- V-ENC-3, V-DEC-3. -/
theorem test_decode_rsvd : decode 0x3#386 = .rsvd ∧ decode 0x7#386 = .rsvd := by decide
/-- V-ENC-6: every byte of the key and the nonce has its own place. -/
theorem test_decode_load :
    decode 0x0000000040000000128000000240000007c7874706c6864605c5854504c4844403c3834302c2824201c1814100c080401#386 =
      .load countingKey rfcNonce 1 := by decide +kernel
/-- V-ENC-8: the counter's highest bit is bit 385. -/
theorem test_decode_load_counter :
    decode 0x3fffffff80000000000000000000000000000000000000000000000000000000000000000000000000000000000000001#386 =
      .load zeroKey zeroNonce 0xfffffffe := by decide +kernel
/-- V-ENC-6, the other way. -/
theorem test_encode_load : encode (.load countingKey rfcNonce 1) =
    0x0000000040000000128000000240000007c7874706c6864605c5854504c4844403c3834302c2824201c1814100c080401#386 := by
  decide +kernel
/-- R88: a number of more than 386 bits is refused by name. -/
theorem test_decode_too_wide : decodeNat (2 ^ 386) = .error .widerThanCommandWord := by decide +kernel
/-- R89: an odd number of hex digits is refused by name. -/
theorem test_text_bad_bytes : parseLine "LOAD key=0 nonce=00".toList = .error .badBytes := by decide +kernel

/-! ### Quarter-round and rounds -/

/-- V-QR-1. -/
theorem test_qr : qr ⟨0x11111111, 0x01020304, 0x9b8d6f43, 0x01234567⟩ = ⟨0xea2a92f4, 0xcb1cf8ce, 0x4581472e, 0x5881c4bb⟩ := by
  decide +kernel
/-- V-QR-9. -/
theorem test_qr_ones : qr ⟨0xffffffff, 0xffffffff, 0xffffffff, 0xffffffff⟩ = ⟨0xf0000ffd, 0x88790878, 0x0110fdef, 0x010ffdf0⟩ := by
  decide +kernel
/-- V-RND-1. -/
theorem test_columnRound : columnRound (Vector.ofFn fun i => BitVec.ofNat 32 i.val) =
    #v[0x8000c004, 0xb000c006, 0x6000c008, 0x5000c00a, 0x64624444, 0xe5e35cdd, 0x63643533, 0xe2e52daa,
       0x08c80488, 0x0bcb06b9, 0x06c6086a, 0x05c50a5b, 0x08c00480, 0x0bc006b0, 0x06c00860, 0x05c00a50] := by
  decide +kernel
/-- V-RND-2. -/
theorem test_diagonalRound : diagonalRound (Vector.ofFn fun i => BitVec.ofNat 32 i.val) =
    #v[0xa000f005, 0xb000d007, 0x4000f009, 0x9000d007, 0xecebcccc, 0x7d7ad555, 0xedebdddd, 0x7a7ca422,
       0x04f40948, 0x09d90799, 0x0afa05aa, 0x0bdb07bb, 0x0bd007b0, 0x04f00940, 0x09d00790, 0x0af005a0] := by
  decide +kernel

/-! ### One step of each instruction -/

/-- V-NOP-2: a NOP beat does not stop the sequencer. -/
theorem test_nop_in_mix : nextIs (step (mixing 7#5 [.cycle false (.word 0x0#386) false])) (fun t => t.rnd = 8#5 ∧ t.faults = []) = true := by
  decide +kernel

/-- V-LOAD-1: the words of the input state, from a command word. -/
theorem test_load : nextIs (step (small .idle 0#5 true false
      [.command (.word 0x0000000040000000128000000240000007c7874706c6864605c5854504c4844403c3834302c2824201c1814100c080401#386)]))
    (fun t => t.loaded ∧ t.valid = false ∧ t.results = [.ok] ∧ t.inputState =
      #v[0x61707865, 0x3320646e, 0x79622d32, 0x6b206574, 0x03020100, 0x07060504, 0x0b0a0908, 0x0f0e0d0c,
         0x13121110, 0x17161514, 0x1b1a1918, 0x1f1e1d1c, 0x00000001, 0x09000000, 0x4a000000, 0x00000000]) = true := by
  decide +kernel

/-- V-LOAD-14: a LOAD of a wrong length while a GEN is in progress faults F_BUSY. -/
theorem test_load_busy : nextIs (exec (.load (List.replicate 31 0) zeroNonce 0) (mixing 3#5 []))
    (fun t => t.faults = [.busy .load] ∧ t.results = [] ∧ t.rnd = 3#5) = true := by
  decide +kernel

/-- V-GEN-2: the block, and the counter after it. -/
theorem test_gen : nextIs (exec .gen { loadedZero with
      key := keyWords .le ⟨countingKey.toArray, by decide⟩, counter := 1, nonce := #v[0x09000000, 0x4a000000, 0] })
    (fun t => t.counter = 2 ∧ t.nonce = #v[0x09000000, 0x4a000000, 0] ∧ t.valid ∧ t.blocksSinceLoad = 1 ∧ t.out.toList =
      [0x10, 0xf1, 0xe7, 0xe4, 0xd1, 0x3b, 0x59, 0x15, 0x50, 0x0f, 0xdd, 0x1f, 0xa3, 0x20, 0x71, 0xc4,
       0xc7, 0xd1, 0xf4, 0xc7, 0x33, 0xc0, 0x68, 0x03, 0x04, 0x22, 0xaa, 0x9a, 0xc3, 0xd4, 0x6c, 0x4e,
       0xd2, 0x82, 0x64, 0x46, 0x07, 0x9f, 0xaa, 0x09, 0x14, 0xc2, 0xd7, 0x05, 0xd9, 0x8b, 0x02, 0xa2,
       0xb5, 0x12, 0x9c, 0xd1, 0xde, 0x16, 0x4e, 0xb9, 0xcb, 0xd0, 0x83, 0xe8, 0xa2, 0x50, 0x3c, 0x4e]) = true := by
  decide +kernel

/-- V-GEN-4: under BE each word of the block has its bytes the other way round. -/
theorem test_gen_be : nextIs (exec .gen { loadedZero with config := ⟨.be, .wrap32, Config.default.sigma⟩ })
    (fun t => t.out.toList =
      [0xad, 0xe0, 0xb8, 0x76, 0x90, 0x3d, 0xf1, 0xa0, 0xe5, 0x6a, 0x5d, 0x40, 0x28, 0xbd, 0x86, 0x53,
       0xb8, 0x19, 0xd2, 0xbd, 0x1a, 0xed, 0x8d, 0xa0, 0xcc, 0xef, 0x36, 0xa8, 0xc7, 0x0d, 0x77, 0x8b,
       0x7c, 0x59, 0x41, 0xda, 0x8d, 0x48, 0x57, 0x51, 0x3f, 0xe0, 0x24, 0x77, 0x37, 0x4a, 0xd8, 0xb8,
       0xf4, 0xb8, 0x43, 0x6a, 0x1c, 0xa1, 0x18, 0x15, 0x69, 0xb6, 0x87, 0xc3, 0x86, 0x65, 0xee, 0xb2]) = true := by
  decide +kernel

/-- V-RSV-2: the reserved code is recorded, and the MIX step happens. -/
theorem test_rsvd_in_mix : nextIs (step (mixing 7#5 [.cycle false (.word 0x7#386) false]))
    (fun t => t.rnd = 8#5 ∧ t.faults = [.reserved .reserved]) = true := by
  decide +kernel

/-- V-RND-8: the second MIX step, on the state of V-LOAD-1. -/
theorem test_mixStep : (mixStep { mixing 1#5 [] with x :=
      #v[0xabbaa25c, 0x1efa51ea, 0x7354fbdf, 0x83d2dc69, 0x3a465196, 0x1c7e64f6, 0xb12fb628, 0xf05b6976,
         0x6b3ca454, 0x08eb14b1, 0xbf8a9ac9, 0xe444df3b, 0xdec62ed2, 0x8862cc77, 0x6e35b345, 0x52a647f1] }).x =
    #v[0xcd52e917, 0x85ab03b4, 0xb3457395, 0xf96de7dd, 0xc4b7cd22, 0x5c2e187a, 0xc95eb461, 0x316c801a,
       0x7bf7d740, 0x7eddd644, 0xf1a1bdf5, 0x761246ca, 0x6b0d58a3, 0x6798471a, 0xd737f167, 0xf173888d] := by
  decide +kernel

/-- V-READ-3: a READ in the FINAL cycle faults; the block is valid one cycle later. -/
theorem test_read_in_final : nextIs (step (finalCycle [.cycle false (.call .nop) true]))
    (fun t => t.valid ∧ t.phase = .idle ∧ t.faults = [.readInvalid] ∧ t.blocksRead = []) = true := by
  decide +kernel

/-- V-RST-2, V-RST-3: reset wins over a GEN beat, without a fault, and the faults stay. -/
theorem test_reset_keeps_faults : nextIs (step { mixing 10#5 [.cycle true (.call .gen) false] with faults := [.busy .load] })
    (fun t => t.phase = .idle ∧ t.rnd = 0#5 ∧ t.loaded = false ∧ t.faults = [.busy .load]) = true := by
  decide +kernel

/-- V-CTR-4, V-CTR-6. -/
theorem test_ctrInc : ctrInc .carry64 0xffffffff 0 = (0, 1) ∧ ctrInc .wrap32 0xffffffff 0xffffffff = (0, 0xffffffff) := by
  decide

/-- V-STR-1: one byte of a message. -/
theorem test_xorStream : (xorStream [0x41] loadedZero).1 = some [0x37] ∧ (xorStream [0x41] loadedZero).2.counter = 1 := by
  decide +kernel

/-- The word of a table row runs as the first instruction after reset. -/
theorem test_withFetchWord : decodeTableWord 386 3 = some .rsvd ∧
    nextIs (step (State.reset.withFetchWord 386 3)) (fun t => t.faults = [.reserved .reserved] ∧ t.pending = []) = true := by
  decide +kernel

/-! ### Witnesses: for every obligation with hypotheses, a state and operands that meet them -/

theorem witness_ResetEventGivesTheResetValues :
    (small .mix 3#5 false true [.reset]).pending = .reset :: [] ∧
    (small .final 20#5 false true [.cycle true (.call .gen) false]).pending = .cycle true (.call .gen) false :: [] := by decide

theorem witness_ResetAbandonsAGenInProgress :
    (mixing 0#5 [.cycle true (.call .gen) false]).busy = true ∧ (finalCycle [.cycle true (.word 0) false]).busy = true := by decide

theorem witness_ConfigurationNeverChanges : ∃ t, step (mixing 0#5 [.reset]) = .next t := ⟨_, rfl⟩

theorem witness_ConstantWordsAreHardwired : ∃ t, step (small .idle 0#5 false false [.command (.call (.load zeroKey zeroNonce 0))]) = .next t :=
  ⟨_, rfl⟩

theorem witness_DecodeOfEncodeIsTheInstruction : (Instr.load countingKey rfcNonce 0xffffffff).wellFormed = true ∧
    Instr.nop.wellFormed = true ∧ Instr.gen.wellFormed = true ∧ Instr.rsvd.wellFormed = true := by decide

theorem witness_EncodeOfDecodeKeepsEveryUsedBit : cmdField 0x5#386 = 0b01 ∧ cmdField 0x4#386 ≠ 0b01 ∧ cmdField 0x6#386 ≠ 0b01 ∧
    cmdField 0x7#386 ≠ 0b01 := by decide

theorem witness_DecodingIsAFunctionOfTheCmdField :
    (0x4#386).extractLsb' 0 2 = 0b00#2 ∧ (0x5#386).extractLsb' 0 2 = 0b01#2 ∧ (0x6#386).extractLsb' 0 2 = 0b10#2 ∧
    (0x7#386).extractLsb' 0 2 = 0b11#2 ∧ (0xff1#386).extractLsb' 0 2 = (0x1#386).extractLsb' 0 2 := by decide

theorem witness_PortLanesCarryBytesInIndexOrder : (31 < 32 ∧ 0 < 32) ∧ (11 < 12 ∧ 0 < 12) ∧
    (small .idle 0#5 true true []).valid = true := by decide

theorem witness_StepRunsTheOldestEvent :
    (small .idle 0#5 false true [.command (.word 0x2#386), .read]).pending = .command (.word 0x2#386) :: [.read] ∧
    (small .idle 0#5 false true [.command (.call .gen)]).pending = .command (.call .gen) :: [] ∧
    (small .idle 0#5 false true [.read]).pending = .read :: [] ∧ (mixing 0#5 [.reset]).pending = .reset :: [] ∧
    (mixing 0#5 [.cycle false (.word 0) true]).pending = .cycle false (.word 0) true :: [] ∧ unloaded.pending = [] ∧
    decodeTableWord 386 2 = some .gen := by decide +kernel

theorem witness_OneOutcomeInPriorityOrder : midGen.busy = true ∧ (finalCycle []).busy = true ∧ unloaded.busy = false ∧
    unloaded.loaded = false ∧ ¬((List.replicate 31 (0 : Byte)).length = 32 ∧ zeroNonce.length = 12) ∧
    ¬(zeroKey.length = 32 ∧ (List.replicate 13 (0 : Byte)).length = 12) ∧
    beatOutcome .gen loadedZero = .ok ∧ beatOutcome .nop midGen = .ok ∧ beatOutcome (.load zeroKey zeroNonce 0) unloaded = .ok ∧
    beatOutcome .gen unloaded = .fault (.notLoaded .gen) ∧ beatOutcome .rsvd midGen = .fault (.reserved .reserved) ∧
    beatOutcome (.load [] [] 0) unloaded = .error .invalidKeyMaterial ∧ loadedZero.busy = false ∧ loadedZero.loaded = true ∧
    zeroKey.length = 32 ∧ zeroNonce.length = 12 := by decide +kernel

theorem witness_ReservedCodeOnlyRecordsItsFault : (Beat.word 0x7#386).instr = .rsvd ∧ (Beat.call .rsvd).instr = .rsvd := by decide

theorem witness_RotationMovesBitsCyclically : (31 < 32 ∧ 31 < 32) ∧ (0 < 32 ∧ 0 < 32) := by decide

theorem witness_QuarterRoundAtChangesItsFourWords : (Tuple.mk 2 7 8 13).indices.Nodup ∧ ¬ (Tuple.mk 2 7 2 13).indices.Nodup ∧
    (0 : Fin 16) ∉ (Tuple.mk 2 7 8 13).indices ∧ Tuple.mk 3 4 9 14 ∈ columnTuples ++ diagonalTuples := by decide

theorem witness_RoundOperandMapIsFixed : (mixing 0#5 []).rnd.toNat % 2 = 0 ∧ (mixing 18#5 []).rnd.toNat % 2 = 0 ∧
    (mixing 1#5 []).rnd.toNat % 2 = 1 ∧ (mixing 19#5 []).rnd.toNat % 2 = 1 := by decide

theorem witness_OrderWithinARoundIsFree : columnTuples.reverse.Perm columnTuples ∧ diagonalTuples.reverse.Perm diagonalTuples ∧
    Tuple.mk 0 4 8 12 ∈ columnTuples ∧ Tuple.mk 3 4 9 14 ∈ diagonalTuples := by decide

/-- A machine in the other counter mode. -/
def longCounter : State := { loadedZero with config := ⟨.be, .carry64, Config.default.sigma⟩ }

theorem witness_CounterWrapsAloneUnderWrap32 : loadedZero.config.counterMode = .wrap32 := by decide

theorem witness_CounterCarriesUnderCarry64 : longCounter.config.counterMode = .carry64 := by decide

theorem witness_LoadBuildsTheInputState : unloaded.phase = .idle ∧ loadedZero.phase = .idle ∧
    (Beat.word 0x1#386).instr = .load zeroKey zeroNonce 0 ∧ (Beat.call (.load [] [] 0)).instr = .load [] [] 0 := by decide +kernel

theorem witness_LoadOfWrongLengthChangesNothing : loadedZero.phase = .idle ∧
    ((List.replicate 33 (0 : Byte)).length ≠ 32 ∨ zeroNonce.length ≠ 12) ∧
    (zeroKey.length ≠ 32 ∨ (List.replicate 11 (0 : Byte)).length ≠ 12) := by decide

theorem witness_LoadReturnsItsResult : loadedZero.phase = .idle ∧ decode 0x1#386 = .load zeroKey zeroNonce 0 := by decide +kernel

theorem witness_LoadWhileBusyOnlyRecordsItsFault : midGen.phase ≠ .idle ∧ (finalCycle []).phase ≠ .idle ∧
    (Beat.call (.load [] zeroNonce 5)).instr = .load [] zeroNonce 5 := by decide

theorem witness_LoadHidesTheOldBlock : (small .idle 0#5 true true []).phase = .idle := by decide

theorem witness_InitStateIsInjective : ∀ i : Fin 16, 4 ≤ i.val →
    (initState Config.default (Vector.replicate 32 1) (Vector.replicate 12 2) 3)[i] =
      (initState Config.default (Vector.replicate 32 1) (Vector.replicate 12 2) 3)[i] := fun _ _ => rfl

theorem witness_GenWritesOneBlock : loadedZero.phase = .idle ∧ loadedZero.loaded = true := by decide

theorem witness_GenGivesThePublishedZeroBlock : unloaded.phase = .idle ∧ unloaded.config = Config.default := by decide

theorem witness_GenThatCannotRunOnlyRecordsItsFault : midGen.phase ≠ .idle ∧ (finalCycle []).phase ≠ .idle ∧
    unloaded.phase = .idle ∧ unloaded.loaded = false ∧ (Beat.word 0x2#386).instr = .gen := by decide

theorem witness_CounterAdvancesOncePerBlock : unloaded.config.counterMode = .wrap32 ∧ unloaded.phase = .idle := by decide

theorem witness_LongCounterAdvancesOncePerBlock : longCounter.config.counterMode = .carry64 ∧ longCounter.phase = .idle ∧
    longCounter.loaded = true ∧ 2 ^ 64 = counterPeriod longCounter.config.counterMode := by decide

theorem witness_EqualInstancesGiveEqualBlocks : loadedZero.phase = .idle ∧ (small .idle 0#5 true true [.read]).phase = .idle ∧
    loadedZero.loaded = true ∧ (small .idle 0#5 true true [.read]).loaded = true ∧
    loadedZero.config = (small .idle 0#5 true true [.read]).config ∧
    loadedZero.inputState = (small .idle 0#5 true true [.read]).inputState := by decide

theorem witness_AcceptStepStartsAGen : (Beat.word 0x2#386).instr = .gen ∧ loadedZero.phase = .idle ∧ loadedZero.loaded = true ∧
    midGen.phase ≠ .idle ∧ (finalCycle []).phase ≠ .idle ∧ unloaded.phase = .idle ∧ unloaded.loaded = false := by decide

theorem witness_MixStepAppliesOneRound : midGen.phase = .mix ∧ (mixing 0#5 []).phase = .mix ∧ (mixing 19#5 []).rnd = 19#5 ∧
    (Beat.word 0x0#386).instr = .nop ∧ (Beat.word 0x2#386).instr ≠ .nop ∧ (mixing 0#5 []).rnd = 0#5 ∧
    (List.replicate 20 (Beat.call .nop)).length = 20 := by decide

theorem witness_FinalStepPublishesTheBlock : (finalCycle []).phase = .final ∧ (Beat.call .nop).instr = .nop := by decide

theorem witness_SequencerAgreesWithAtomicGen : (Beat.word 0x2#386).instr = .gen ∧
    (List.replicate 20 (Beat.call .nop) ++ [Beat.call .rsvd]).length = 21 ∧
    loadedZero.phase = .idle ∧ loadedZero.rnd = 0#5 ∧ loadedZero.loaded = true ∧
    (∀ b ∈ List.replicate 21 (Beat.call .nop), b.instr = .nop) ∧ 20 ≤ 20 := by decide

theorem witness_TimelineOfOneGen : loadedZero.phase = .idle ∧ loadedZero.loaded = true := by decide

/-- The invariant holds in the middle of a GEN. -/
theorem midGen_inv : Inv midGen where
  faults := List.Pairwise.nil
  idle := by decide
  mix := fun _ => ⟨by decide, rfl⟩
  final := fun h => absurd h (by decide)
  busy := by decide
  valid := fun h => absurd h (by decide)
  unloaded := by decide

theorem witness_WaitEndsWithTheBlockFree : Inv midGen ∧ 19 < midGen.busyCycles := ⟨midGen_inv, by decide⟩

theorem witness_EventsInOneCycle : (finalCycle []).phase = .final ∧ (finalCycle []).valid = false ∧ (Beat.call .gen).instr = .gen ∧
    (Beat.word 0x1#386).instr = .load zeroKey zeroNonce 0 := by decide +kernel

theorem witness_ReadTakesAValidBlockOnly :
    (small .idle 0#5 true true [.read]).pending = .read :: [] ∧ (small .idle 0#5 true true [.read]).valid = true ∧
    (small .idle 0#5 false true [.read]).pending = .read :: [] ∧ (small .idle 0#5 false true [.read]).valid = false := by decide

theorem witness_ReadTakesAValidBlockOnly_cycle : (Beat.word 0x0#386).instr = .nop ∧ (small .idle 0#5 true true []).phase = .idle ∧
    (small .idle 0#5 true true []).valid = true ∧ loadedZero.phase = .idle ∧ loadedZero.valid = false := by decide

theorem witness_BusyIsDerivedFromPhase_cycles : (Beat.word 0x2#386).instr = .gen ∧ loadedZero.phase = .idle ∧
    loadedZero.loaded = true ∧ (List.replicate 20 (Beat.call .nop)).length ≤ 20 := by decide

theorem witness_BusyIsDerivedFromPhase : (small .idle 0#5 false true [.command (.word 0x2#386)]).ports.stBusy = false ∧
    ∃ t, step (small .idle 0#5 false true [.command (.word 0x2#386)]) = .next t := ⟨by decide, _, rfl⟩

theorem witness_FlagsChange_loaded : (small .idle 0#5 false false [.command (.call (.load zeroKey zeroNonce 0))]).loaded = false ∧
    nextIs (step (small .idle 0#5 false false [.command (.call (.load zeroKey zeroNonce 0))])) (fun t => t.loaded) = true := by
  decide +kernel

theorem witness_FlagsChange_unloaded : nextIs (step (mixing 1#5 [.reset])) (fun t => t.loaded = false) = true ∧
    (mixing 1#5 [.reset]).loaded = true := by decide +kernel

theorem witness_FlagsChange_valid : nextIs (step (finalCycle [])) (fun t => t.valid) = true ∧ (finalCycle []).valid = false ∧
    nextIs (step (small .idle 0#5 false true [.command (.call .gen)])) (fun t => t.valid) = true := by decide +kernel

theorem witness_FlagsChange_invalid : (small .idle 0#5 true true [.reset]).valid = true ∧
    nextIs (step (small .idle 0#5 true true [.reset])) (fun t => t.valid = false) = true ∧
    nextIs (step (small .idle 0#5 true true [.cycle false (.call .gen) false])) (fun t => t.valid = false ∧ t.phase = .mix) =
      true ∧
    nextIs (step (small .idle 0#5 true true [.command (.call (.load zeroKey zeroNonce 0))])) (fun t => t.valid = false) = true := by
  decide +kernel

theorem witness_InstanceChangesOnlyByItsCommands :
    resets (finalCycle [.cycle false (.call .nop) false]).nextEvent = false ∧
    ¬ (finalCycle [.cycle false (.call .nop) false]).loadsInstance ∧
    (finalCycle [.cycle false (.call .nop) false]).config.counterMode = .wrap32 ∧
    nextIs (step (finalCycle [.cycle false (.call .nop) false]))
      (fun t => t.counter ≠ 0 ∧ t.out ≠ (finalCycle []).out) = true := by
  exact ⟨by decide, fun h => absurd h.1 (by decide), by decide, by decide +kernel⟩

theorem witness_FaultedRunsNeverEndSuccessfully :
    (∃ t, run 2 { midGen with faults := [.readInvalid] } = .next t) ∧ [Fault.readInvalid] ≠ [] := ⟨⟨_, rfl⟩, by decide⟩

theorem witness_EveryStepKeepsTheInvariant : Inv midGen ∧ ∃ t, step midGen = .next t := ⟨midGen_inv, _, rfl⟩

theorem witness_XorStreamKeepsLengthAndCountsBlocks : loadedZero.phase = .idle ∧ loadedZero.loaded = true ∧ (1 ≤ 1 ∧ 1 ≤ 64) ∧
    (1 ≤ 64 ∧ 64 ≤ 64) ∧ (65 ≤ 65 ∧ 65 ≤ 128) ∧ (65 ≤ 128 ∧ 128 ≤ 128) := by decide

theorem witness_XorStreamUsesSuccessiveBlocks : loadedZero.phase = .idle ∧ loadedZero.loaded = true ∧
    (∃ t, xorStream [0x41] loadedZero = (some [0x37], t)) ∧ 0 < [(0x41 : Byte)].length := by
  refine ⟨by decide, by decide, ⟨(xorStream [0x41] loadedZero).2, ?_⟩, by decide⟩
  exact Prod.ext test_xorStream.1 rfl

theorem witness_DecryptingAnEncryptionGivesTheMessage : loadedZero.phase = .idle ∧ unloaded.phase = .idle ∧
    loadedZero.config = unloaded.config := by decide

theorem witness_InstancesShareNoState : (0 : Nat) ≠ 1 ∧ [loadedZero, midGen][1]? = some midGen := by decide

/-- The host's duty of R196 can be met and can be broken across two LOADs of one key and nonce. -/
theorem test_noReuse_same_counter : ¬ noReuse [(4, { loadedZero with pending := [genCommand,
    .command (.call (.load zeroKey zeroNonce 0)), genCommand] })] := by
  unfold noReuse
  decide +kernel

theorem test_noReuse_next_counter : noReuse [(4, { loadedZero with pending := [genCommand,
    .command (.call (.load zeroKey zeroNonce 1)), genCommand] })] := by
  unfold noReuse
  decide +kernel

end Sys2Proof.Tests
end

/-! ### The hardwired constants (10_state.md R22) -/

namespace Sys2Proof.Machine

/-- The constants read out of the layout of R21, whatever the registers hold. -/
theorem inputState_constant (s : State) (i : Fin 4) : s.inputState[i.val] = s.config.sigma[i] := by
  match i with
  | 0 | 1 | 2 | 3 => rfl

/-- No effect of a step writes the configuration (00_scope.md R6). -/
theorem Effect.config_eq {e : HostEvent} {r t : State} (h : Effect e r t) : t.config = r.config := by
  cases h with
  | nothing | fault | rejected | loaded | block | accepted | reset => rfl
  | sequenced => exact sequencerStep_config r
  | sequencedFault => exact sequencerStep_config r

theorem step_config {s t : State} (h : step s = .next t) : t.config = s.config := by
  obtain ⟨r, hr, hE⟩ := step_cases h
  exact hE.config_eq.trans hr.sameBlock.config

/-- Settles O5: words 0 to 3 read the configuration, which neither a write of `S` nor a step changes. -/
theorem constantWordsAreHardwired : Obligations.ConstantWordsAreHardwired := by
  refine ⟨inputState_constant, fun s w => inputState_constant (s.writeS w), fun s t i h => ?_, rfl, by decide⟩
  rw [inputState_constant, inputState_constant, step_config h]

end Sys2Proof.Machine

/-! ### `busy` and the sequencer's count of cycles (10_state.md R33, 42_block_generator.md R162) -/

namespace Sys2Proof.Machine

/-- A command as one atomic step leaves the sequencer's phase alone: a GEN is never left in progress. -/
theorem exec_phase {i : Instr} {s t : State} (h : exec i s = .next t) : t.phase = s.phase := by
  cases i with
  | nop | rsvd => cases h; rfl
  | load key nonce ctr =>
    rcases execLoad_cases key nonce ctr s with ⟨_, h'⟩ | ⟨_, _, h'⟩ | ⟨_, k, n, _, _, h'⟩ <;>
      cases h'.symm.trans h <;> rfl
  | gen =>
    rcases execGen_cases s with ⟨_, h'⟩ | ⟨_, _, h'⟩ | ⟨_, _, h'⟩ <;> cases h'.symm.trans h <;> rfl

@[simp] theorem recordFault_busyCycles (f : Fault) (s : State) : (recordFault f s).busyCycles = s.busyCycles := rfl

/-- A GEN takes 21 cycles after its accept cycle: 20 MIX and one FINAL. -/
@[simp] theorem acceptStep_busyCycles (s : State) : (acceptStep s).busyCycles = 21 := rfl

theorem phase_ne_idle_of_busyCycles {s : State} (h : 0 < s.busyCycles) : s.phase ≠ .idle := by
  intro hi
  simp [State.busyCycles, hi] at h

/-- The sequencer's own step uses up one of the cycles that are left. -/
theorem sequencerStep_busyCycles {s : State} {n : Nat} (h : s.busyCycles = n + 1) :
    (sequencerStep s).busyCycles = n := by
  cases hp : s.phase with
  | idle => simp [State.busyCycles, hp] at h
  | final =>
    have hn : n = 0 := by simpa [State.busyCycles, hp] using h
    simp [State.busyCycles, sequencerStep_final hp, hn]
  | mix =>
    have hn : 21 - s.rnd.toNat = n + 1 := by simpa [State.busyCycles, hp] using h
    rw [sequencerStep_mix hp]
    by_cases h19 : s.rnd = 19#5
    · have : n = 1 := by simpa [h19] using hn.symm
      simp [State.busyCycles, h19, this]
    · have hr : (s.rnd + 1#5).toNat = s.rnd.toNat + 1 := by bv_omega
      simp only [State.busyCycles, mixStep_phase, if_neg h19, hp, mixStep_rnd, hr]
      omega

/-- A clock cycle without reset while a GEN is in progress, whatever the beat. -/
theorem clockCycle_busyCycles (b : Beat) {s : State} {n : Nat} (h : s.busyCycles = n + 1) :
    ∃ t, clockCycle false b false s = .next t ∧ t.pending = s.pending ∧ t.busyCycles = n := by
  have hn := sequencerStep_busyCycles h
  rcases clockCycle_busy b (phase_ne_idle_of_busyCycles (s := s) (by omega)) with ⟨hc, _⟩ | ⟨f, hc, _⟩
  · exact ⟨_, hc, sequencerStep_pending s, hn⟩
  · exact ⟨_, hc, sequencerStep_pending s, hn⟩

/-- Clock cycles without reset count down the cycles that are left, whatever the beats. -/
theorem runEvents_cycles_busyCycles (bs : List Beat) {s : State} {n : Nat} (h : s.busyCycles = n + bs.length) :
    ∃ t, runEvents (bs.map fun b => .cycle false b false) s = .next t ∧ t.busyCycles = n := by
  induction bs generalizing s with
  | nil => exact ⟨_, runEvents_nil s, h⟩
  | cons b bs ih =>
    obtain ⟨t, hc, hp, ht⟩ := clockCycle_busyCycles b
      (s := { s with pending := bs.map fun b => .cycle false b false }) (n := n + bs.length) h
    rw [List.map_cons, runEvents_cycle hc hp]
    exact ih ht

/-- A GEN beat in an IDLE cycle of a machine with an instance is accepted (R154). -/
theorem clockCycle_accept {b : Beat} {s : State} (hb : b.instr = .gen) (hi : s.phase = .idle) (hl : s.loaded = true) :
    clockCycle false b false s = .next (acceptStep s) := by
  simp [clockCycle, busy_eq_false.mpr hi, hb, idleCycle, hl]

/-- Settles O51: the cycles left are 21 after the accept cycle and count down by one a cycle, and a command as one atomic
step keeps the phase. -/
theorem busyIsDerivedFromPhase : Obligations.BusyIsDerivedFromPhase := by
  refine ⟨fun s => busy_eq_true, fun s g bs hg hi hl hlen => ?_, fun s t b rest hp hb h => ?_⟩
  · have ha := clockCycle_accept (s := { s with pending := bs.map fun b => .cycle false b false }) hg hi hl
    have hcount : 21 = (21 - bs.length) + bs.length := by omega
    obtain ⟨t, ht, hleft⟩ := runEvents_cycles_busyCycles bs ((acceptStep_busyCycles _).trans hcount)
    refine ⟨t, ?_, busy_eq_true.mpr (phase_ne_idle_of_busyCycles (by omega))⟩
    rw [List.map_cons, runEvents_cycle ha rfl]
    exact ht
  · rw [step_cons hp] at h
    exact busy_eq_false.mpr ((exec_phase h).trans (busy_eq_false.mp hb))

end Sys2Proof.Machine

/-! ### The bit lanes of the ports (20_memory.md R65) -/

namespace Sys2Proof

/-- A field inside a field, as a field of the whole word. -/
theorem extractLsb'_of_extractLsb' {n : Nat} (w : BitVec n) {a l b m : Nat} (h : b + m ≤ l) :
    (w.extractLsb' a l).extractLsb' b m = w.extractLsb' (b + a) m := by
  ext i hi
  have hl : b + i < l := by omega
  have ha : a + (b + i) = b + a + i := by omega
  simp [hl, ha]

/-- Key byte `i` is the lane `[8i+7 : 8i]` of `key_in`, which is field `[257:2]` of the word (R80). -/
theorem keyByte_eq_lane (w : CommandWord) {i : Nat} (h : i < 32) :
    keyByte w i = (w.extractLsb' 2 256).extractLsb' (8 * i) 8 :=
  (extractLsb'_of_extractLsb' w (by omega)).symm

/-- Nonce byte `i` is the lane `[8i+7 : 8i]` of `nonce_in`, which is field `[353:258]` of the word (R80). -/
theorem nonceByte_eq_lane (w : CommandWord) {i : Nat} (h : i < 12) :
    nonceByte w i = (w.extractLsb' 258 96).extractLsb' (8 * i) 8 :=
  (extractLsb'_of_extractLsb' w (by omega)).symm

end Sys2Proof

namespace Sys2Proof.Machine

/-- While `valid` is set, the port shows the output block on its lanes. -/
theorem ports_ksOut_of_valid {s : State} (h : s.valid = true) : s.ports.ksOut = some (ksOutLanes s.out) := by
  simp [State.ports, State.readBlock, h]

/-- Settles O11: each byte field of the command word is a lane of its port's field, and the output port shows the lanes
of `OUT`. -/
theorem portLanesCarryBytesInIndexOrder : Obligations.PortLanesCarryBytesInIndexOrder :=
  ⟨fun w _ => keyByte_eq_lane w, fun w _ => nonceByte_eq_lane w, fun _ => rfl,
    fun s hv => ⟨ksOutLanes s.out, ports_ksOut_of_valid hv, ksOutLanes_byte s.out⟩⟩

end Sys2Proof.Machine

/-! ### Words and bytes in the two byte orders (20_memory.md R61, R62) -/

namespace Sys2Proof.Machine

/-- BE packs the four bytes in the reversed order of LE. -/
theorem pack32_be (b0 b1 b2 b3 : Byte) : pack32 .be b0 b1 b2 b3 = pack32 .le b3 b2 b1 b0 := rfl

/-- BE unpacks to the bytes of LE in reversed order. -/
theorem unpack32_be (w : Word) : unpack32 .be w = (unpack32 .le w).reverse := by
  simp [unpack32]

/-- R61 under LE: the sum of the four bytes fits the word, so nothing of it is lost. -/
theorem pack32_le_toNat (b0 b1 b2 b3 : Byte) :
    (pack32 .le b0 b1 b2 b3).toNat = b0.toNat + 2 ^ 8 * b1.toNat + 2 ^ 16 * b2.toNat + 2 ^ 24 * b3.toNat := by
  have h0 := b0.isLt
  have h1 := b1.isLt
  have h2 := b2.isLt
  have h3 := b3.isLt
  exact Nat.mod_eq_of_lt (by omega)

/-- A byte of a word is a digit of its number. -/
theorem extractLsb'_eq_of_digit {w : Word} {k : Nat} {b : Byte} (h : w.toNat / 2 ^ k % 2 ^ 8 = b.toNat) :
    w.extractLsb' k 8 = b := by
  apply BitVec.eq_of_toNat_eq
  rw [BitVec.extractLsb'_toNat, Nat.shiftRight_eq_div_pow, h]

theorem unpack32_le_pack32 (b0 b1 b2 b3 : Byte) : unpack32 .le (pack32 .le b0 b1 b2 b3) = #v[b0, b1, b2, b3] := by
  have hw := pack32_le_toNat b0 b1 b2 b3
  have h0 := b0.isLt
  have h1 := b1.isLt
  have h2 := b2.isLt
  have h3 := b3.isLt
  have d0 : (pack32 .le b0 b1 b2 b3).extractLsb' 0 8 = b0 := extractLsb'_eq_of_digit (by omega)
  have d1 : (pack32 .le b0 b1 b2 b3).extractLsb' 8 8 = b1 := extractLsb'_eq_of_digit (by omega)
  have d2 : (pack32 .le b0 b1 b2 b3).extractLsb' 16 8 = b2 := extractLsb'_eq_of_digit (by omega)
  have d3 : (pack32 .le b0 b1 b2 b3).extractLsb' 24 8 = b3 := extractLsb'_eq_of_digit (by omega)
  simp only [unpack32, d0, d1, d2, d3]

theorem pack32_le_unpack32 (w : Word) :
    pack32 .le (w.extractLsb' 0 8) (w.extractLsb' 8 8) (w.extractLsb' 16 8) (w.extractLsb' 24 8) = w := by
  apply BitVec.eq_of_toNat_eq
  rw [pack32_le_toNat]
  simp only [BitVec.extractLsb'_toNat, Nat.shiftRight_eq_div_pow]
  omega

/-- R62: unpacking undoes packing in either order. -/
@[simp] theorem unpack32_pack32 (o : ByteOrder) (b0 b1 b2 b3 : Byte) :
    unpack32 o (pack32 o b0 b1 b2 b3) = #v[b0, b1, b2, b3] := by
  cases o with
  | le => exact unpack32_le_pack32 b0 b1 b2 b3
  | be =>
    rw [pack32_be, unpack32_be, unpack32_le_pack32]
    simp

/-- R62: packing undoes unpacking in either order. -/
@[simp] theorem pack32_unpack32 (o : ByteOrder) (w : Word) :
    pack32 o (unpack32 o w)[0] (unpack32 o w)[1] (unpack32 o w)[2] (unpack32 o w)[3] = w := by
  cases o with
  | le | be => exact pack32_le_unpack32 w

/-- Settles O27: BE is LE with the bytes reversed, and under LE the four bytes are the base-256 digits of the word. -/
theorem packAndUnpackAreInverse : Obligations.PackAndUnpackAreInverse :=
  ⟨pack32_le_toNat, fun b0 b1 b2 b3 => pack32_le_toNat b3 b2 b1 b0, fun _ => rfl, fun _ => rfl, unpack32_pack32,
    pack32_unpack32, rfl, rfl, rfl, rfl⟩

end Sys2Proof.Machine

/-! ### Decoding by the field `cmd` (30_encoding.md R80 to R82) -/

namespace Sys2Proof

/-- The decoder reads the command off `cmd` alone. -/
theorem decode_command (w : CommandWord) : (decode w).command = commandOfCode (cmdField w) := by
  unfold decode
  cases commandOfCode (cmdField w) <;> rfl

theorem decode_nop {w : CommandWord} (h : cmdField w = 0b00#2) : decode w = .nop := by
  simp [decode, commandOfCode, h]

theorem decode_load {w : CommandWord} (h : cmdField w = 0b01#2) :
    decode w = .load ((List.range 32).map (keyByte w)) ((List.range 12).map (nonceByte w)) (ctrField w) := by
  simp [decode, commandOfCode, h]

theorem decode_gen {w : CommandWord} (h : cmdField w = 0b10#2) : decode w = .gen := by
  simp [decode, commandOfCode, h]

theorem decode_rsvd {w : CommandWord} (h : cmdField w = 0b11#2) : decode w = .rsvd := by
  simp [decode, commandOfCode, h]

/-- Settles O8: the four codes are the four branches of the decoder, and LOAD's operand bytes are the lanes of `key_in` and
`nonce_in`. -/
theorem decodingIsAFunctionOfTheCmdField : Obligations.DecodingIsAFunctionOfTheCmdField := by
  refine fun w => ⟨decode_nop, fun h => ⟨_, _, decode_load h, by simp, by simp, fun i hi => ?_, fun i hi => ?_⟩,
    decode_gen, decode_rsvd, fun w' h => ?_⟩
  · simp [hi, keyByte_eq_lane w hi]
  · simp [hi, nonceByte_eq_lane w hi]
  · rw [decode_command, decode_command]
    exact congrArg commandOfCode h

end Sys2Proof

/-! ### The command words as numbers (30_encoding.md R91) -/

namespace Sys2Proof

/-- `KEYINT` and `NONCEINT` of R91: byte `i` counts `2^(8i)`. -/
theorem lanes_eq_sum (bs : List Byte) : lanes bs = ∑ i : Fin bs.length, bs[i].toNat * 2 ^ (8 * i.val) := by
  induction bs with
  | nil => rfl
  | cons b bs ih =>
    have hshift (i : Fin bs.length) :
        256 * (bs[i].toNat * 2 ^ (8 * i.val)) = bs[i].toNat * 2 ^ (8 * (i.val + 1)) := by ring
    calc lanes (b :: bs)
        = b.toNat + ∑ i : Fin bs.length, bs[i].toNat * 2 ^ (8 * (i.val + 1)) := by
          rw [lanes_cons, ih, Finset.mul_sum, Finset.sum_congr rfl fun i _ => hshift i]
      _ = ∑ i : Fin (b :: bs).length, (b :: bs)[i].toNat * 2 ^ (8 * i.val) := by
          simp [Fin.sum_univ_succ]

theorem lanes_toList {n : Nat} (v : Vector Byte n) : lanes v.toList = ∑ i : Fin n, v[i].toNat * 2 ^ (8 * i.val) := by
  obtain ⟨a, rfl⟩ := v
  exact lanes_eq_sum a.toList

@[simp] theorem lanes_replicate_zero (n : Nat) : lanes (List.replicate n 0) = 0 := by
  induction n with
  | zero => rfl
  | succ n ih => rw [List.replicate_succ, lanes_cons, ih]; rfl

/-- A LOAD of zeros is the code of LOAD with the counter above the operand fields. -/
theorem encode_load_zeros_toNat (ctr : Word) :
    (encode (.load (List.replicate 32 0) (List.replicate 12 0) ctr)).toNat = 1 + 2 ^ 354 * ctr.toNat := by
  rw [encode_load_toNat _ _ _ List.length_replicate List.length_replicate, lanes_replicate_zero, lanes_replicate_zero,
    Nat.mul_zero, Nat.mul_zero]

/-- Settles O9: no field of a LOAD overflows into the next, and the lanes of the operands are the sums of the rule. -/
theorem commandWordsAreTheSumsOfTheirFields : Obligations.CommandWordsAreTheSumsOfTheirFields := by
  refine ⟨fun key nonce ctr => ?_, rfl, rfl, rfl, ?_, encode_load_zeros_toNat 1⟩
  · rw [encode_load_toNat _ _ _ (Vector.length_toList ..) (Vector.length_toList ..), lanes_toList, lanes_toList]
  · exact BitVec.eq_of_toNat_eq (encode_load_zeros_toNat 0)

end Sys2Proof

/-! ### The reserved code (30_encoding.md R87) -/

namespace Sys2Proof.Machine

theorem exec_rsvd (s : State) : exec .rsvd s = .next (recordFault (.reserved .reserved) s) := rfl

/-- A reserved beat in a clock cycle, in every phase: its fault beside the sequencer's own step. -/
theorem clockCycle_rsvd {b : Beat} (hb : b.instr = .rsvd) (s : State) :
    clockCycle false b false s = .next (recordFault (.reserved .reserved) (sequencerStep s)) := by
  by_cases h : s.phase = .idle
  · simp [clockCycle, busy_eq_false.mpr h, hb, idleCycle, exec_rsvd, sequencerStep_idle h]
  · simp [clockCycle, busy_eq_true.mpr h, hb, busyCycle, exec_rsvd, andThen, sequencerStep_recordFault]

/-- Settles O17: the fault is recorded in every phase, beside the sequencer's own step. -/
theorem reservedCodeOnlyRecordsItsFault : Obligations.ReservedCodeOnlyRecordsItsFault := by
  refine ⟨fun s => ⟨_, exec_rsvd s, fun f => mem_insertFault ..⟩, fun s b hb => ?_, ?_⟩
  · refine ⟨insertFault (.reserved .reserved) s.faults, ?_, fun f => mem_insertFault ..⟩
    rw [clockCycle_rsvd hb, recordFault_sequencerStep]
  · rw [decode_rsvd rfl, exec_rsvd]
    rfl

end Sys2Proof.Machine

/-! ### The round operand map (30_encoding.md R85) -/

namespace Sys2Proof.Machine

theorem oneRound_even {r : Nat} (h : r % 2 = 0) (x : Words) : oneRound r x = columnRound x := if_pos h

theorem oneRound_odd {r : Nat} (h : r % 2 = 1) (x : Words) : oneRound r x = diagonalRound x := if_neg (by omega)

/-- Settles O23: the parity of `rnd` selects the column or the diagonal round, and a round applies its tuples in order. -/
theorem roundOperandMapIsFixed : Obligations.RoundOperandMapIsFixed := by
  refine ⟨fun s h => ?_, fun s h => ?_, by decide⟩
  · rw [mixStep_x, oneRound_even h]
    rfl
  · rw [mixStep_x, oneRound_odd h]
    rfl

end Sys2Proof.Machine

/-! ### The word operations (40_quarter_round.md R100 to R102) -/

namespace Sys2Proof.Machine

theorem add32_toNat (a b : Word) : (add32 a b).toNat = (a.toNat + b.toNat) % 2 ^ 32 := BitVec.toNat_add a b

theorem add32_comm (a b : Word) : add32 a b = add32 b a := BitVec.add_comm a b

theorem add32_assoc (a b c : Word) : add32 (add32 a b) c = add32 a (add32 b c) := BitVec.add_assoc a b c

@[simp] theorem add32_zero (a : Word) : add32 a 0 = a := BitVec.add_zero a

/-- Subtraction undoes the adder, whatever the second operand. -/
@[simp] theorem sub32_add32_cancel (a b : Word) : sub32 (add32 a b) b = a := BitVec.add_sub_cancel a b

@[simp] theorem add32_sub32_cancel (a b : Word) : add32 (sub32 a b) b = a := BitVec.sub_add_cancel a b

theorem getLsbD_xor32 (a b : Word) (k : Nat) : (xor32 a b).getLsbD k = (a.getLsbD k ^^ b.getLsbD k) :=
  BitVec.getLsbD_xor

@[simp] theorem xor32_self (a : Word) : xor32 a a = 0 := BitVec.xor_self

@[simp] theorem xor32_zero (a : Word) : xor32 a 0 = a := BitVec.xor_zero

theorem xor32_ones (a : Word) : xor32 a 0xffffffff = ~~~a := BitVec.xor_allOnes

/-- Exclusive or undoes itself. -/
@[simp] theorem xor32_xor32_cancel (a b : Word) : xor32 (xor32 a b) b = a := by
  rw [xor32, xor32, BitVec.xor_assoc, BitVec.xor_self, BitVec.xor_zero]

/-- Bits below `n` come from the right shift, the others from the left shift. -/
theorem getLsbD_rotl (x : Word) {n k : Nat} (hn : n < 32) (hk : k < 32) :
    (rotl x n).getLsbD k = x.getLsbD ((k + 32 - n) % 32) := by
  rw [rotl, BitVec.getLsbD_or, BitVec.getLsbD_shiftLeft, BitVec.getLsbD_ushiftRight]
  by_cases h : k < n
  · have hi : (k + 32 - n) % 32 = 32 - n + k := by omega
    simp [h, hi]
  · have hi : (k + 32 - n) % 32 = k - n := by omega
    have ho : 32 ≤ 32 - n + k := by omega
    simp [h, hi, hk, BitVec.getLsbD_of_ge _ _ ho]

/-- Two rotations that make a full turn cancel. -/
theorem rotl_rotl_cancel (x : Word) {m n : Nat} (hm : m < 32) (hn : n < 32) (h : m + n = 32) :
    rotl (rotl x m) n = x := by
  apply BitVec.eq_of_getLsbD_eq
  intro k hk
  have hi : ((k + 32 - n) % 32 + 32 - m) % 32 = k := by omega
  rw [getLsbD_rotl _ hn hk, getLsbD_rotl _ hm (Nat.mod_lt _ (by decide)), hi]

theorem rotr_rotl (x : Word) {n : Nat} (h0 : 0 < n) (h : n < 32) : rotr (rotl x n) n = x :=
  rotl_rotl_cancel x h (by omega) (by omega)

theorem rotl_rotr (x : Word) {n : Nat} (h0 : 0 < n) (h : n < 32) : rotl (rotr x n) n = x :=
  rotl_rotl_cancel x (by omega) h (by omega)

@[simp] theorem rotl_amount_zero (x : Word) : rotl x 0 = x := by
  rw [rotl, BitVec.shiftLeft_zero, BitVec.ushiftRight_eq_zero (Nat.le_refl 32), BitVec.or_zero]

@[simp] theorem rotl_zero (n : Nat) : rotl 0 n = 0 := by
  simp [rotl]

/-- Every bit of the rotation is a bit of the word, so all of them are set. -/
theorem rotl_ones {n : Nat} (hn : n < 32) : rotl 0xffffffff n = 0xffffffff := by
  apply BitVec.eq_of_getLsbD_eq
  intro k hk
  have hones : ∀ i < 32, (0xffffffff : Word).getLsbD i = true := by decide
  rw [getLsbD_rotl _ hn hk, hones _ (Nat.mod_lt _ (by decide)), hones k hk]

/-- Settles O18: ADD32 and XOR32 are the sum and the exclusive or of 32-bit words. -/
theorem adderAndXorAreWordwise : Obligations.AdderAndXorAreWordwise :=
  ⟨add32_toNat, fun a b c => ⟨add32_comm a b, add32_assoc a b c, add32_zero a⟩, by decide, by decide, by decide,
    getLsbD_xor32, fun a => ⟨xor32_self a, xor32_zero a, xor32_ones a⟩, by decide⟩

/-- Settles O19: the bit law gives the rotation of the word of ones, and no rotation changes zero. -/
theorem rotationMovesBitsCyclically : Obligations.RotationMovesBitsCyclically :=
  ⟨fun x _ _ => getLsbD_rotl x, fun n hn => ⟨rotl_zero n, rotl_ones hn⟩, rotl_amount_zero, by decide⟩

end Sys2Proof.Machine

/-! ### QR_at and its four words (40_quarter_round.md R105) -/

namespace Sys2Proof.Machine

/-- Each word after the four writes; where an index is repeated, the last write stands. -/
theorem getElem_putQuad (x : Words) (t : Tuple) (q : Quad) (k : Fin 16) :
    (putQuad x t q)[k] = if t.d = k then q.d else if t.c = k then q.c else if t.b = k then q.b
      else if t.a = k then q.a else x[k] := by
  simp only [putQuad, Fin.getElem_fin, Vector.getElem_set, Fin.val_inj]

theorem indices_nodup {t : Tuple} : t.indices.Nodup ↔
    (t.a ≠ t.b ∧ t.a ≠ t.c ∧ t.a ≠ t.d) ∧ (t.b ≠ t.c ∧ t.b ≠ t.d) ∧ t.c ≠ t.d := by
  simp [Tuple.indices]

theorem not_mem_indices {t : Tuple} {k : Fin 16} : k ∉ t.indices ↔ k ≠ t.a ∧ k ≠ t.b ∧ k ≠ t.c ∧ k ≠ t.d := by
  simp [Tuple.indices]

/-- With distinct indices no write hides another. -/
theorem quadAt_putQuad (x : Words) {t : Tuple} (h : t.indices.Nodup) (q : Quad) : quadAt (putQuad x t q) t = q := by
  obtain ⟨⟨hab, hac, had⟩, ⟨hbc, hbd⟩, hcd⟩ := indices_nodup.mp h
  simp only [quadAt, getElem_putQuad, if_true, if_neg hab.symm, if_neg hac.symm, if_neg had.symm, if_neg hbc.symm,
    if_neg hbd.symm, if_neg hcd.symm]

theorem putQuad_frame (x : Words) {t : Tuple} (q : Quad) {k : Fin 16} (h : k ∉ t.indices) :
    (putQuad x t q)[k] = x[k] := by
  obtain ⟨ha, hb, hc, hd⟩ := not_mem_indices.mp h
  rw [getElem_putQuad, if_neg hd.symm, if_neg hc.symm, if_neg hb.symm, if_neg ha.symm]

/-- Two register files that agree at the tuple and off it are equal. -/
theorem words_ext_at (t : Tuple) {x y : Words} (hat : quadAt x t = quadAt y t)
    (hoff : ∀ k : Fin 16, k ∉ t.indices → x[k] = y[k]) : x = y := by
  obtain ⟨ha, hb, hc, hd⟩ := Quad.mk.inj hat
  have hall : ∀ k : Fin 16, x[k] = y[k] := by
    intro k
    by_cases hk : k ∈ t.indices
    · simp only [Tuple.indices, List.mem_cons, List.not_mem_nil, or_false] at hk
      rcases hk with rfl | rfl | rfl | rfl
      exacts [ha, hb, hc, hd]
    · exact hoff k hk
  exact Vector.ext fun i hi => hall ⟨i, hi⟩

theorem quadAt_qrAt (x : Words) {t : Tuple} (h : t.indices.Nodup) : quadAt (qrAt x t) t = qr (quadAt x t) :=
  quadAt_putQuad x h _

theorem qrAt_frame (x : Words) {t : Tuple} {k : Fin 16} (h : k ∉ t.indices) : (qrAt x t)[k] = x[k] :=
  putQuad_frame x _ h

theorem qrAtChecked_of_nodup (x : Words) {t : Tuple} (h : t.indices.Nodup) : qrAtChecked x t = .ok (qrAt x t) :=
  if_pos (decide_eq_true h)

theorem qrAtChecked_of_not_nodup (x : Words) {t : Tuple} (h : ¬ t.indices.Nodup) :
    qrAtChecked x t = .error .repeatedIndex := by
  simp [qrAtChecked, Tuple.distinct, h]

theorem columnTuples_nodup : ∀ t ∈ columnTuples, t.indices.Nodup := by decide

theorem diagonalTuples_nodup : ∀ t ∈ diagonalTuples, t.indices.Nodup := by decide

/-- Settles O22: QR_at writes QR of the four words to their places, leaves the others, and is checked for repeated
indices, which no tuple of a round has. -/
theorem quarterRoundAtChangesItsFourWords : Obligations.QuarterRoundAtChangesItsFourWords := by
  refine ⟨fun x t h => ⟨qrAt x t, qrAtChecked_of_nodup x h, rfl, quadAt_qrAt x h, fun k => qrAt_frame x⟩,
    fun x t => qrAtChecked_of_not_nodup x, fun t ht => ?_, rfl⟩
  exact (List.mem_append.mp ht).elim (columnTuples_nodup t) (diagonalTuples_nodup t)

end Sys2Proof.Machine

/-! ### Undoing the quarter-round and the rounds (40_quarter_round.md R104) -/

namespace Sys2Proof.Machine

section Stages

variable {n : Nat} (h0 : 0 < n) (h : n < 32) (q : Quad)
include h0 h

theorem stageADInv_stageAD : stageADInv n (stageAD n q) = q := by
  simp [stageADInv, stageAD, rotr_rotl _ h0 h]

theorem stageAD_stageADInv : stageAD n (stageADInv n q) = q := by
  simp [stageADInv, stageAD, rotl_rotr _ h0 h]

theorem stageCBInv_stageCB : stageCBInv n (stageCB n q) = q := by
  simp [stageCBInv, stageCB, rotr_rotl _ h0 h]

theorem stageCB_stageCBInv : stageCB n (stageCBInv n q) = q := by
  simp [stageCBInv, stageCB, rotl_rotr _ h0 h]

end Stages

/-- The inverse stages undo the stages from the last one to the first. -/
@[simp] theorem qrInv_qr (q : Quad) : qrInv (qr q) = q := by
  rw [qrInv, qr, stageCBInv_stageCB (by decide) (by decide), stageADInv_stageAD (by decide) (by decide),
    stageCBInv_stageCB (by decide) (by decide), stageADInv_stageAD (by decide) (by decide)]

@[simp] theorem qr_qrInv (q : Quad) : qr (qrInv q) = q := by
  rw [qrInv, qr, stageAD_stageADInv (by decide) (by decide), stageCB_stageCBInv (by decide) (by decide),
    stageAD_stageADInv (by decide) (by decide), stageCB_stageCBInv (by decide) (by decide)]

theorem qr_bijective : Function.Bijective qr :=
  Function.bijective_iff_has_inverse.mpr ⟨qrInv, qrInv_qr, qr_qrInv⟩

/-- QR_at is undone at its tuple by QR_inv, and changes nothing off it. -/
theorem qrAt_bijective {t : Tuple} (h : t.indices.Nodup) : Function.Bijective fun x : Words => qrAt x t := by
  constructor
  · intro x y (hxy : qrAt x t = qrAt y t)
    refine words_ext_at t (qr_bijective.injective ?_) fun k hk => ?_
    · rw [← quadAt_qrAt x h, hxy, quadAt_qrAt y h]
    · rw [← qrAt_frame x hk, hxy, qrAt_frame y hk]
  · intro y
    refine ⟨putQuad y t (qrInv (quadAt y t)), words_ext_at t ?_ fun k hk => ?_⟩
    · rw [quadAt_qrAt _ h, quadAt_putQuad _ h, qr_qrInv]
    · rw [qrAt_frame _ hk, putQuad_frame y _ hk]

theorem qrAll_bijective {ts : List Tuple} (h : ∀ t ∈ ts, t.indices.Nodup) : Function.Bijective (qrAll ts) := by
  induction ts with
  | nil => exact Function.bijective_id
  | cons t ts ih =>
    obtain ⟨ht, hts⟩ := List.forall_mem_cons.mp h
    exact (ih hts).comp (qrAt_bijective ht)

theorem columnRound_bijective : Function.Bijective columnRound := qrAll_bijective columnTuples_nodup

theorem diagonalRound_bijective : Function.Bijective diagonalRound := qrAll_bijective diagonalTuples_nodup

theorem doubleRound_eq_comp : doubleRound = diagonalRound ∘ columnRound := by
  funext x
  rw [doubleRound, Function.comp_apply]

theorem doubleRound_bijective : Function.Bijective doubleRound := by
  rw [doubleRound_eq_comp]
  exact diagonalRound_bijective.comp columnRound_bijective

theorem doubleRounds_bijective (n : Nat) : Function.Bijective (doubleRounds n) := by
  induction n with
  | zero => exact Function.bijective_id
  | succ n ih => exact ih.comp doubleRound_bijective

theorem rounds20_bijective : Function.Bijective rounds20 := doubleRounds_bijective (Config.rounds / 2)

/-- Settles O21: each stage has an inverse, so QR, QR_at, a round and any number of rounds have one. -/
theorem quarterRoundAndTwentyRoundsAreBijections : Obligations.QuarterRoundAndTwentyRoundsAreBijections :=
  ⟨qrInv_qr, qr_bijective, rounds20_bijective, rfl⟩

end Sys2Proof.Machine

/-! ### The layout of InitState (41_state_initializer.md R121) -/

namespace Sys2Proof.Machine

/-- The key words lie in words 4 to 11 (R21). -/
theorem assemble_key (g : Vector Word 4) (k : Vector Word 8) (c : Word) (n : Vector Word 3) (i : Fin 8) :
    (assemble g k c n)[4 + i.val] = k[i] := by
  match i with
  | 0 | 1 | 2 | 3 | 4 | 5 | 6 | 7 => rfl

/-- The nonce words lie in words 13 to 15 (R21). -/
theorem assemble_nonce (g : Vector Word 4) (k : Vector Word 8) (c : Word) (n : Vector Word 3) (j : Fin 3) :
    (assemble g k c n)[13 + j.val] = n[j] := by
  match j with
  | 0 | 1 | 2 => rfl

section InitState

variable (c : Config) (k : Vector Byte 32) (n : Vector Byte 12) (ctr : Word)

theorem initState_key (i : Fin 8) : (initState c k n ctr)[4 + i.val] =
    pack32 c.byteOrder k[4 * i.val] k[4 * i.val + 1] k[4 * i.val + 2] k[4 * i.val + 3] := by
  rw [initState, assemble_key, keyWords, Fin.getElem_fin, Vector.getElem_ofFn]

theorem initState_counter : (initState c k n ctr)[12] = ctr := rfl

theorem initState_nonce (j : Fin 3) : (initState c k n ctr)[13 + j.val] =
    pack32 c.byteOrder n[4 * j.val] n[4 * j.val + 1] n[4 * j.val + 2] n[4 * j.val + 3] := by
  rw [initState, assemble_nonce, nonceWords, Fin.getElem_fin, Vector.getElem_ofFn]

end InitState

end Sys2Proof.Machine

/-! ### LOAD as one atomic step and in a clock cycle (41_state_initializer.md R120 to R126) -/

namespace Sys2Proof.Machine

section Load

variable {s : State} (ctr : Word)

theorem exec_load_busy (key nonce : List Byte) (h : s.phase ≠ .idle) :
    exec (.load key nonce ctr) s = .next (recordFault (.busy .load) s) := by
  rcases execLoad_cases key nonce ctr s with ⟨_, he⟩ | ⟨hi, _⟩ | ⟨hi, _⟩
  · exact he
  · exact absurd hi h
  · exact absurd hi h

theorem exec_load_rejected {key nonce : List Byte} (h : s.phase = .idle) (hl : key.length ≠ 32 ∨ nonce.length ≠ 12) :
    exec (.load key nonce ctr) s = .next (returnResult .invalidKeyMaterial s) := by
  rcases execLoad_cases key nonce ctr s with ⟨hb, _⟩ | ⟨_, _, he⟩ | ⟨_, k, n, rfl, rfl, _⟩
  · exact absurd h hb
  · exact he
  · simp at hl

theorem exec_load_ok (key : Vector Byte 32) (nonce : Vector Byte 12) (h : s.phase = .idle) :
    exec (.load key.toList nonce.toList ctr) s =
      .next (returnResult .ok (loadInstance (initState s.config key nonce ctr) s)) := by
  rcases execLoad_cases key.toList nonce.toList ctr s with ⟨hb, _⟩ | ⟨_, hl, _⟩ | ⟨_, k, n, hk, hn, he⟩
  · exact absurd h hb
  · simp at hl
  · obtain rfl := Vector.toList_inj.mp hk
    obtain rfl := Vector.toList_inj.mp hn
    exact he

/-- A LOAD beat takes one cycle (R120). -/
theorem clockCycle_load_idle {b : Beat} {key nonce : List Byte} (hb : b.instr = .load key nonce ctr)
    (h : s.phase = .idle) : clockCycle false b false s = exec (.load key nonce ctr) s := by
  simp [clockCycle, busy_eq_false.mpr h, hb, idleCycle]

theorem clockCycle_load_busy {b : Beat} {key nonce : List Byte} (hb : b.instr = .load key nonce ctr)
    (h : s.phase ≠ .idle) :
    clockCycle false b false s = .next (recordFault (.busy .load) (sequencerStep s)) := by
  simp [clockCycle, busy_eq_true.mpr h, hb, busyCycle, exec_load_busy ctr key nonce h, andThen,
    sequencerStep_recordFault]

end Load

/-- What a successful LOAD wrote to `S` is read back from it. -/
theorem inputState_loadInstance_initState (s : State) (key : Vector Byte 32) (nonce : Vector Byte 12) (ctr : Word) :
    (loadInstance (initState s.config key nonce ctr) s).inputState = initState s.config key nonce ctr :=
  inputState_loadInstance s.config _ ctr _ s rfl

/-- Settles O31: the input state of the next state is InitState, whose words are known by the layout; the frame is the
record of `loadInstance`. -/
theorem loadBuildsTheInputState : Obligations.LoadBuildsTheInputState := by
  refine ⟨fun s key nonce ctr h => ?_, fun s b key nonce ctr hb h => clockCycle_load_idle ctr hb h, rfl⟩
  have hS := inputState_loadInstance_initState s key nonce ctr
  refine ⟨_, exec_load_ok ctr key nonce h, rfl, hS, inputState_constant _, ?_⟩
  rw [inputState_returnResult, hS]
  exact ⟨initState_key s.config key nonce ctr, rfl, initState_nonce s.config key nonce ctr⟩

/-- Settles O32: the rejection only lists a result. -/
theorem loadOfWrongLengthChangesNothing : Obligations.LoadOfWrongLengthChangesNothing := by
  refine fun s key nonce ctr h hl => ⟨?_, _, exec_load_rejected ctr h hl⟩
  have hlen : ¬(key.length = 32 ∧ nonce.length = 12) := not_and_or.mpr hl
  simp [beatOutcome, busy_eq_false.mpr h, hlen]

/-- Settles O34: the fault is recorded, in a clock cycle beside the sequencer's own step. -/
theorem loadWhileBusyOnlyRecordsItsFault : Obligations.LoadWhileBusyOnlyRecordsItsFault := by
  refine fun s key nonce ctr h => ⟨insertFault (.busy .load) s.faults, exec_load_busy ctr key nonce h,
    fun f => mem_insertFault .., fun b hb => ?_⟩
  rw [clockCycle_load_busy ctr hb h, recordFault_sequencerStep]

end Sys2Proof.Machine

/-! ### Reading the operands of a LOAD back (41_state_initializer.md R128) -/

namespace Sys2Proof.Machine

/-- The four bytes of a word, listed. -/
theorem vector4_eta (v : Vector Byte 4) : #v[v[0], v[1], v[2], v[3]] = v :=
  Vector.ext fun i hi => match i, hi with
    | 0, _ | 1, _ | 2, _ | 3, _ => rfl

theorem unpack32_pack32_bytes (o : ByteOrder) (b : Vector Byte 4) : unpack32 o (pack32 o b[0] b[1] b[2] b[3]) = b := by
  rw [unpack32_pack32, vector4_eta]

theorem pack32_bijective (o : ByteOrder) : Function.Bijective fun b : Vector Byte 4 => pack32 o b[0] b[1] b[2] b[3] :=
  Function.bijective_iff_has_inverse.mpr ⟨unpack32 o, unpack32_pack32_bytes o, pack32_unpack32 o⟩

/-- Byte `j` of the word packed from four consecutive bytes is the one at offset `j`. -/
theorem unpack32_pack32_at {m : Nat} (o : ByteOrder) (v : Vector Byte m) {i : Nat} (h : 4 * i + 3 < m) (j : Fin 4) :
    (unpack32 o (pack32 o v[4 * i] v[4 * i + 1] v[4 * i + 2] v[4 * i + 3]))[j] = v[4 * i + j.val] := by
  rw [Fin.getElem_fin]
  simp only [unpack32_pack32]
  match j with
  | 0 | 1 | 2 | 3 => rfl

/-- Byte sequences that agree in every group of four are equal. -/
theorem vector_ext_by_fours (m : Nat) {v w : Vector Byte (4 * m)}
    (h : ∀ (i : Fin m) (j : Fin 4), v[4 * i.val + j.val] = w[4 * i.val + j.val]) : v = w := by
  refine Vector.ext fun a ha => ?_
  have hij := h ⟨a / 4, by omega⟩ ⟨a % 4, by omega⟩
  simpa only [Nat.div_add_mod] using hij

section ReadBack

variable (c : Config) (k : Vector Byte 32) (n : Vector Byte 12) (ctr : Word)

theorem unpack32_initState_key (i : Fin 8) (j : Fin 4) :
    (unpack32 c.byteOrder (initState c k n ctr)[4 + i.val])[j] = k[4 * i.val + j.val] := by
  rw [initState_key]
  exact unpack32_pack32_at c.byteOrder k (by omega) j

theorem unpack32_initState_nonce (i : Fin 3) (j : Fin 4) :
    (unpack32 c.byteOrder (initState c k n ctr)[13 + i.val])[j] = n[4 * i.val + j.val] := by
  rw [initState_nonce]
  exact unpack32_pack32_at c.byteOrder n (by omega) j

end ReadBack

/-- Words 4 to 15 fix the operands, since each byte of them is read back from one of these words. -/
theorem initState_injective {c : Config} {k k' : Vector Byte 32} {n n' : Vector Byte 12} {ctr ctr' : Word}
    (h : ∀ i : Fin 16, 4 ≤ i.val → (initState c k n ctr)[i] = (initState c k' n' ctr')[i]) :
    k = k' ∧ n = n' ∧ ctr = ctr' := by
  refine ⟨vector_ext_by_fours 8 fun i j => ?_, vector_ext_by_fours 3 fun i j => ?_, h 12 (by decide)⟩
  · have hw : (initState c k n ctr)[4 + i.val] = (initState c k' n' ctr')[4 + i.val] :=
      h ⟨4 + i.val, by omega⟩ (Nat.le_add_right ..)
    rw [← unpack32_initState_key c k n ctr i j, hw, unpack32_initState_key]
  · have hw : (initState c k n ctr)[13 + i.val] = (initState c k' n' ctr')[13 + i.val] :=
      h ⟨13 + i.val, by omega⟩ (Nat.le_add_right_of_le (by decide))
    rw [← unpack32_initState_nonce c k n ctr i j, hw, unpack32_initState_nonce]

/-- Settles O36: unpacking undoes packing, so the operands are read back word by word, and equal words give equal
operands. -/
theorem initStateIsInjective : Obligations.InitStateIsInjective :=
  ⟨pack32_bijective, fun _ _ _ _ _ _ _ => initState_injective,
    fun c k n ctr => ⟨unpack32_initState_key c k n ctr, unpack32_initState_nonce c k n ctr, initState_counter c k n ctr⟩,
    rfl⟩

end Sys2Proof.Machine

/-! ### The order of the quarter-rounds within a round (42_block_generator.md R146) -/

namespace Sys2Proof.Machine

/-- Two tuples share no index. -/
def Tuple.Apart (t u : Tuple) : Prop := ∀ i ∈ t.indices, i ∉ u.indices

theorem Tuple.Apart.symm {t u : Tuple} (h : t.Apart u) : u.Apart t := fun i hu ht => h i ht hu

theorem quadAt_inj {x y : Words} {t : Tuple} : quadAt x t = quadAt y t ↔ ∀ k ∈ t.indices, x[k] = y[k] := by
  simp [quadAt, Tuple.indices]

/-- QR_at leaves the words of every tuple apart from its own. -/
theorem quadAt_qrAt_apart (x : Words) {t u : Tuple} (h : t.Apart u) : quadAt (qrAt x t) u = quadAt x u :=
  quadAt_inj.mpr fun k hk => qrAt_frame x (h.symm k hk)

/-- Two quarter-rounds on tuples that share no index commute: each reads and writes only its own four words. -/
theorem qrAt_comm (x : Words) {t u : Tuple} (ht : t.indices.Nodup) (hu : u.indices.Nodup) (h : t.Apart u) :
    qrAt (qrAt x t) u = qrAt (qrAt x u) t := by
  have hat_t : quadAt (qrAt (qrAt x t) u) t = quadAt (qrAt (qrAt x u) t) t := by
    rw [quadAt_qrAt_apart _ h.symm, quadAt_qrAt x ht, quadAt_qrAt _ ht, quadAt_qrAt_apart x h.symm]
  have hat_u : quadAt (qrAt (qrAt x t) u) u = quadAt (qrAt (qrAt x u) t) u := by
    rw [quadAt_qrAt _ hu, quadAt_qrAt_apart x h, quadAt_qrAt_apart _ h, quadAt_qrAt x hu]
  refine words_ext_at t hat_t fun k hkt => ?_
  by_cases hku : k ∈ u.indices
  · exact quadAt_inj.mp hat_u k hku
  · rw [qrAt_frame _ hku, qrAt_frame x hkt, qrAt_frame _ hkt, qrAt_frame x hku]

theorem qrAll_cons (t : Tuple) (ts : List Tuple) (x : Words) : qrAll (t :: ts) x = qrAll ts (qrAt x t) := rfl

/-- A list of quarter-rounds leaves the words of a tuple apart from all of theirs. -/
theorem quadAt_qrAll_apart {ts : List Tuple} {t : Tuple} (h : ∀ u ∈ ts, u.Apart t) (x : Words) :
    quadAt (qrAll ts x) t = quadAt x t := by
  induction ts generalizing x with
  | nil => rfl
  | cons u us ih =>
    obtain ⟨hu, hus⟩ := List.forall_mem_cons.mp h
    rw [qrAll_cons, ih hus, quadAt_qrAt_apart x hu]

section Round

variable {ts : List Tuple} (hd : ts.Pairwise Tuple.Apart) (hn : ∀ t ∈ ts, t.indices.Nodup)
include hd hn

/-- Quarter-rounds on tuples that are pairwise apart give the same result in any order. -/
theorem qrAll_perm {us : List Tuple} (h : us.Perm ts) (x : Words) : qrAll us x = qrAll ts x := by
  have : Std.Symm Tuple.Apart := ⟨fun _ _ => Tuple.Apart.symm⟩
  refine (h.symm.foldl_eq' (fun t ht u hu y => ?_) x).symm
  by_cases htu : t = u
  · rw [htu]
  · exact qrAt_comm y (hn t ht) (hn u hu) (hd.forall ht hu htu)

/-- Quarter-rounds on tuples that are pairwise apart act as if done all at once: each works on the words of the input. -/
theorem quadAt_qrAll {t : Tuple} (ht : t ∈ ts) (x : Words) : quadAt (qrAll ts x) t = qr (quadAt x t) := by
  induction ts generalizing x with
  | nil => cases ht
  | cons u us ih =>
    obtain ⟨hu, hus⟩ := List.pairwise_cons.mp hd
    obtain ⟨hnu, hnus⟩ := List.forall_mem_cons.mp hn
    rw [qrAll_cons]
    rcases List.mem_cons.mp ht with rfl | ht
    · rw [quadAt_qrAll_apart fun v hv => (hu v hv).symm, quadAt_qrAt x hnu]
    · rw [ih hus hnus ht, quadAt_qrAt_apart x (hu t ht)]

end Round

theorem columnTuples_apart : columnTuples.Pairwise Tuple.Apart := by
  unfold Tuple.Apart
  decide

theorem diagonalTuples_apart : diagonalTuples.Pairwise Tuple.Apart := by
  unfold Tuple.Apart
  decide

/-- A one in word 0 tells the two orders of the passes apart, by word 1 of their results. -/
theorem columnRound_diagonalRound_not_comm :
    diagonalRound (columnRound ((Vector.replicate 16 0).set 0 1)) ≠
      columnRound (diagonalRound ((Vector.replicate 16 0).set 0 1)) := by
  decide +kernel

/-- Settles O24: quarter-rounds on disjoint tuples commute, so a round is a fold that any permutation keeps. -/
theorem orderWithinARoundIsFree : Obligations.OrderWithinARoundIsFree :=
  ⟨columnTuples_apart, diagonalTuples_apart,
    fun _ x h => qrAll_perm columnTuples_apart columnTuples_nodup h x,
    fun _ x h => qrAll_perm diagonalTuples_apart diagonalTuples_nodup h x,
    fun x _ ht => quadAt_qrAll columnTuples_apart columnTuples_nodup ht x,
    fun x _ ht => quadAt_qrAll diagonalTuples_apart diagonalTuples_nodup ht x,
    _, columnRound_diagonalRound_not_comm⟩

end Sys2Proof.Machine

/-! ### The twenty rounds (42_block_generator.md R145) -/

namespace Sys2Proof.Machine

theorem doubleRounds_eq_iterate (n : Nat) (x : Words) : doubleRounds n x = doubleRound^[n] x := by
  induction n generalizing x with
  | zero => rfl
  | succ n ih => exact ih (doubleRound x)

theorem rounds20_eq_iterate (x : Words) : rounds20 x = doubleRound^[10] x := doubleRounds_eq_iterate 10 x

theorem rounds20_eq_roundsUpTo (x : Words) : rounds20 x = roundsUpTo 20 x := doubleRounds_eq_roundsUpTo 10 0 x

/-- The parity rule counted from 1: round `r + 1` is a column round when `r + 1` is odd. -/
theorem roundsUpTo_succ_parity (r : Nat) (x : Words) : roundsUpTo (r + 1) x =
    if (r + 1) % 2 = 1 then columnRound (roundsUpTo r x) else diagonalRound (roundsUpTo r x) := by
  rw [roundsUpTo_succ]
  split
  · exact oneRound_even (by omega) _
  · exact oneRound_odd (by omega) _

theorem doubleRound_zero : doubleRound (Vector.replicate 16 0) = Vector.replicate 16 0 := by decide +kernel

theorem rounds20_zero : rounds20 (Vector.replicate 16 0) = Vector.replicate 16 0 := by
  rw [rounds20_eq_iterate, Function.iterate_fixed doubleRound_zero]

/-- The example of R145, which agrees with RFC 8439 section 2.3.2. -/
theorem rounds20_example :
    rounds20 #v[0x61707865, 0x3320646e, 0x79622d32, 0x6b206574, 0x03020100, 0x07060504, 0x0b0a0908, 0x0f0e0d0c,
        0x13121110, 0x17161514, 0x1b1a1918, 0x1f1e1d1c, 0x00000001, 0x09000000, 0x4a000000, 0x00000000] =
      #v[0x837778ab, 0xe238d763, 0xa67ae21e, 0x5950bb2f, 0xc4f2d0c7, 0xfc62bb2f, 0x8fa018fc, 0x3f5ec7b7,
        0x335271c2, 0xf29489f3, 0xeabda8fc, 0x82e46ebd, 0xd19c12b4, 0xb04e16de, 0x9e83d0cb, 0x4e3c50a2] := by
  decide +kernel

/-- Settles O25: the double-rounds are counted round by round, each is a bijection, and zero is a fixed point of one. -/
theorem twentyRoundsAlternate : Obligations.TwentyRoundsAlternate :=
  ⟨rounds20_eq_iterate, rounds20_eq_roundsUpTo, roundsUpTo_succ_parity, rounds20_zero, rounds20_bijective,
    rounds20_example⟩

end Sys2Proof.Machine

/-! ### Feedback and the serializer (42_block_generator.md R147, R148) -/

namespace Sys2Proof.Machine

theorem getElem_feedback (x s : Words) (i : Fin 16) : (feedback x s)[i] = add32 x[i] s[i] := by
  rw [feedback, Fin.getElem_fin, Vector.getElem_ofFn]

/-- Settles O26: each word of the feedback is one sum of its own, and the words of `S` are known by its layout. -/
theorem feedbackAddsWordByWord : Obligations.FeedbackAddsWordByWord := by
  refine ⟨fun x s i => ?_, fun s => ⟨getElem_feedback s.x s.inputState 12, fun i => ?_⟩, by decide⟩
  · rw [getElem_feedback, add32_toNat]
  · rw [← inputState_constant]
    exact getElem_feedback s.x s.inputState ⟨i.val, by omega⟩

theorem getElem_serialize (o : ByteOrder) (y : Words) (j : Fin 16) (k : Fin 4) :
    (serialize o y)[4 * j.val + k.val] = (unpack32 o y[j])[k] := by
  have hj : (4 * j.val + k.val) / 4 = j.val := by omega
  have hk : (4 * j.val + k.val) % 4 = k.val := by omega
  simp [serialize, hj, hk]

/-- R66: the words of a serialized block are the words it was made from. -/
theorem blockWord_serialize (o : ByteOrder) (y : Words) (j : Fin 16) : blockWord o (serialize o y) j = y[j] := by
  have h0 : (serialize o y)[4 * j.val] = (unpack32 o y[j])[0] := getElem_serialize o y j 0
  have h1 : (serialize o y)[4 * j.val + 1] = (unpack32 o y[j])[1] := getElem_serialize o y j 1
  have h2 : (serialize o y)[4 * j.val + 2] = (unpack32 o y[j])[2] := getElem_serialize o y j 2
  have h3 : (serialize o y)[4 * j.val + 3] = (unpack32 o y[j])[3] := getElem_serialize o y j 3
  rw [blockWord, h0, h1, h2, h3, pack32_unpack32]

/-- The words of a block, serialized, give the block back. -/
theorem serialize_blockWords (o : ByteOrder) (b : Block) : serialize o (Vector.ofFn (blockWord o b)) = b := by
  refine vector_ext_by_fours 16 fun j k => ?_
  rw [getElem_serialize, Fin.getElem_fin (Vector.ofFn _), Vector.getElem_ofFn]
  exact unpack32_pack32_at o b (by omega) k

theorem blockWords_serialize (o : ByteOrder) (y : Words) : Vector.ofFn (blockWord o (serialize o y)) = y :=
  Vector.ext fun i hi => (Vector.getElem_ofFn hi).trans (blockWord_serialize o y ⟨i, hi⟩)

/-- Settles O28: reading the words of a block back is the inverse of Serialize. -/
theorem serializeIsABijection : Obligations.SerializeIsABijection :=
  ⟨getElem_serialize, fun o => Function.bijective_iff_has_inverse.mpr
    ⟨fun b => Vector.ofFn (blockWord o b), blockWords_serialize o, serialize_blockWords o⟩, blockWord_serialize⟩

end Sys2Proof.Machine

/-! ### The counter increment (42_block_generator.md R150, R151) -/

namespace Sys2Proof.Machine

theorem ctrInc_wrap32 (c n : Word) : ctrInc .wrap32 c n = (add32 c 1#32, n) := rfl

theorem ctrInc_carry64 (c n : Word) :
    ctrInc .carry64 c n = (add32 c 1#32, if add32 c 1#32 = 0#32 then add32 n 1#32 else n) := rfl

theorem add32_one_eq_zero {c : Word} : add32 c 1#32 = 0#32 ↔ c.toNat = 2 ^ 32 - 1 := by
  unfold add32
  bv_omega

/-- R150: the increment of a state under `WRAP32` writes the counter alone. -/
theorem incrementCounter_wrap32 {s : State} (h : s.config.counterMode = .wrap32) :
    incrementCounter s = { s with counter := add32 s.counter 1#32 } := by
  simp [incrementCounter, State.writeCounter, h, ctrInc_wrap32]

/-- Settles O29: the sum modulo 2^32, and the word 13 it writes back is the one that it read. -/
theorem counterWrapsAloneUnderWrap32 : Obligations.CounterWrapsAloneUnderWrap32 :=
  ⟨fun c _ => ⟨add32_toNat c 1#32, rfl⟩, fun _ => rfl, fun _ => incrementCounter_wrap32⟩

/-- R151: the carry out of word 12 is what word 13 counts. -/
theorem counterValue_ctrInc_carry64 (c n : Word) :
    counterValue .carry64 (ctrInc .carry64 c n).1 (ctrInc .carry64 c n).2 =
      (counterValue .carry64 c n + 1) % 2 ^ 64 := by
  have hc : (add32 c 1#32).toNat = (c.toNat + 1) % 2 ^ 32 := add32_toNat c 1#32
  have hn : (add32 n 1#32).toNat = (n.toNat + 1) % 2 ^ 32 := add32_toNat n 1#32
  have hc' := c.isLt
  have hn' := n.isLt
  rw [ctrInc_carry64]
  by_cases h : add32 c 1#32 = 0#32
  · have hmax := add32_one_eq_zero.mp h
    simp only [if_pos h, counterValue, hc, hn]
    omega
  · have hmax := mt add32_one_eq_zero.mpr h
    simp only [if_neg h, counterValue, hc]
    omega

/-- R151: the increment of a state under `CARRY64` writes words 12 and 13 alone. -/
theorem incrementCounter_carry64 {s : State} (h : s.config.counterMode = .carry64) :
    incrementCounter s = { s with
      counter := (ctrInc .carry64 s.counter s.nonce[0]).1
      nonce := #v[(ctrInc .carry64 s.counter s.nonce[0]).2, s.nonce[1], s.nonce[2]] } := by
  rw [← nonce_set_zero, ← h]
  rfl

/-- Settles O30: with the carry, words 13 and 12 count as one number. -/
theorem counterCarriesUnderCarry64 : Obligations.CounterCarriesUnderCarry64 :=
  ⟨counterValue_ctrInc_carry64, ctrInc_carry64, by decide, by decide,
    fun _ h => ⟨_, _, rfl, incrementCounter_carry64 h⟩⟩

end Sys2Proof.Machine

/-! ### NOP, and a GEN that cannot run (42_block_generator.md R158, R159) -/

namespace Sys2Proof.Machine

/-- A NOP beat, however it is presented, makes the quiet cycle. -/
theorem clockCycle_of_nop {b : Beat} (hb : b.instr = .nop) (s : State) :
    clockCycle false b false s = .next (sequencerStep s) := by
  rw [← clockCycle_nop]
  simp only [clockCycle, hb]
  rfl

theorem decode_zero : decode 0x0#386 = .nop := decode_nop (by simp [cmdField])

/-- Settles O16: the word 0 is NOP, and the cycle of a NOP beat is the sequencer's own step in every phase. -/
theorem nopWritesNoState : Obligations.NopWritesNoState :=
  ⟨decode_zero, fun _ => rfl, clockCycle_of_nop decode_zero⟩

section Gen

variable {s : State}

theorem exec_gen_busy (h : s.phase ≠ .idle) : exec .gen s = .next (recordFault (.busy .gen) s) := by
  rcases execGen_cases s with ⟨_, he⟩ | ⟨hi, _⟩ | ⟨hi, _⟩
  · exact he
  · exact absurd hi h
  · exact absurd hi h

theorem exec_gen_notLoaded (h : s.phase = .idle) (hl : s.loaded = false) :
    exec .gen s = .next (recordFault (.notLoaded .gen) s) := by
  rcases execGen_cases s with ⟨hb, _⟩ | ⟨_, _, he⟩ | ⟨_, hl', _⟩
  · exact absurd h hb
  · exact he
  · simp [hl] at hl'

theorem exec_gen_ok (h : s.phase = .idle) (hl : s.loaded = true) :
    exec .gen s = .next (finishBlock { s with x := rounds20 s.inputState }) := by
  rcases execGen_cases s with ⟨hb, _⟩ | ⟨_, hl', _⟩ | ⟨_, _, he⟩
  · exact absurd h hb
  · simp [hl] at hl'
  · exact he

variable {b : Beat} (hb : b.instr = .gen)
include hb

theorem clockCycle_gen_busy (h : s.phase ≠ .idle) :
    clockCycle false b false s = .next { sequencerStep s with faults := insertFault (.busy .gen) s.faults } := by
  rw [← recordFault_sequencerStep]
  simp [clockCycle, busy_eq_true.mpr h, hb, busyCycle, exec_gen_busy h, andThen, sequencerStep_recordFault]

theorem clockCycle_gen_notLoaded (h : s.phase = .idle) (hl : s.loaded = false) :
    clockCycle false b false s = .next (recordFault (.notLoaded .gen) s) := by
  simp [clockCycle, busy_eq_false.mpr h, hb, idleCycle, hl, exec_gen_notLoaded h hl]

end Gen

/-- Settles O39: the fault is recorded, in a clock cycle beside the sequencer's own step (in phase IDLE it has
none). -/
theorem genThatCannotRunOnlyRecordsItsFault : Obligations.GenThatCannotRunOnlyRecordsItsFault :=
  ⟨fun _ h => ⟨_, exec_gen_busy h, fun _ => mem_insertFault .., fun _ hb => clockCycle_gen_busy hb h⟩,
    fun _ h hl => ⟨_, exec_gen_notLoaded h hl, fun _ => mem_insertFault ..,
      fun _ hb => clockCycle_gen_notLoaded hb h hl⟩⟩

/-- Settles O43: the accept step, and the two faults of a GEN that is not accepted. -/
theorem acceptStepStartsAGen : Obligations.AcceptStepStartsAGen :=
  ⟨fun _ _ hb hi hl => ⟨_, clockCycle_accept hb hi hl, rfl, rfl, rfl⟩,
    fun _ _ hb h => ⟨_, clockCycle_gen_busy hb h, fun _ => mem_insertFault ..⟩,
    fun _ _ hb hi hl => ⟨_, clockCycle_gen_notLoaded hb hi hl, fun _ => mem_insertFault ..⟩⟩

end Sys2Proof.Machine

/-! ### The steps of the sequencer under any beats (42_block_generator.md R154 to R157, R162) -/

namespace Sys2Proof.Machine

/-- What beats presented while a GEN is in progress do to the faults `fs`: none is lost, and NOPs add none (R155, R157). -/
structure FaultsAdded (bs : List Beat) (fs gs : List Fault) : Prop where
  kept : ∀ f ∈ fs, f ∈ gs
  nops : (∀ b ∈ bs, b.instr = .nop) → gs = fs

theorem FaultsAdded.nil (fs : List Fault) : FaultsAdded [] fs fs := ⟨fun _ => id, fun _ => rfl⟩

theorem FaultsAdded.append {bs bs' : List Beat} {fs gs hs : List Fault} (h : FaultsAdded bs fs gs)
    (h' : FaultsAdded bs' gs hs) : FaultsAdded (bs ++ bs') fs hs := by
  refine ⟨fun f hf => h'.kept f (h.kept f hf), fun hb => ?_⟩
  obtain ⟨hbs, hbs'⟩ := List.forall_mem_append.mp hb
  rw [h'.nops hbs', h.nops hbs]

/-- The faults that a beat can report while a GEN is in progress. -/
theorem beatOutcome_fault_of_busy {i : Instr} {s : State} {f : Fault} (h : s.phase ≠ .idle)
    (hf : beatOutcome i s = .fault f) : f = .busy .load ∨ f = .busy .gen ∨ f = .reserved .reserved := by
  have hb := busy_eq_true.mpr h
  cases i with
  | nop => cases hf
  | load key nonce ctr =>
    have hload : f = .busy .load := by simpa [beatOutcome, hb] using hf.symm
    exact .inl hload
  | gen =>
    have hgen : f = .busy .gen := by simpa [beatOutcome, hb] using hf.symm
    exact .inr (.inl hgen)
  | rsvd =>
    cases hf
    exact .inr (.inr rfl)

/-- A cycle while a GEN is in progress: the sequencer's own step, whatever the beat, which only adds its fault. -/
theorem clockCycle_sequencerStep (b : Beat) {s : State} (h : s.phase ≠ .idle) : ∃ fs,
    clockCycle false b false s = .next { sequencerStep s with faults := fs } ∧ FaultsAdded [b] s.faults fs ∧
    (b.instr ≠ .nop → ∃ f ∈ fs, f = .busy .load ∨ f = .busy .gen ∨ f = .reserved .reserved) := by
  rcases clockCycle_busy b h with ⟨hc, hb⟩ | ⟨f, hc, hf⟩
  · refine ⟨(sequencerStep s).faults, hc, ?_, fun hb' => absurd hb hb'⟩
    rw [sequencerStep_faults]
    exact ⟨fun _ => id, fun _ => rfl⟩
  · rw [recordFault_sequencerStep] at hc
    refine ⟨_, hc, ⟨fun g hg => (mem_insertFault f g _).mpr (.inr hg), fun hb => ?_⟩,
      fun _ => ⟨f, (mem_insertFault f f _).mpr (.inl rfl), beatOutcome_fault_of_busy h hf⟩⟩
    rw [List.forall_mem_singleton.mp hb] at hf
    cases hf

/-- The sequencer with `k` rounds done on the working register of `s`, as the MIX steps leave it (R155). -/
def afterRounds (k : Nat) (s : State) : State :=
  { s with
    x := roundsUpTo k s.x
    rnd := BitVec.ofNat 5 k
    phase := if k = 20 then .final else .mix }

theorem afterRounds_zero {s : State} (hp : s.phase = .mix) (hr : s.rnd = 0#5) : afterRounds 0 s = s := by
  simp only [afterRounds, roundsUpTo, ← hr]
  rw [if_neg (by decide), ← hp]

theorem afterRounds_phase_of_lt {k : Nat} (h : k < 20) (s : State) : (afterRounds k s).phase = .mix :=
  if_neg (Nat.ne_of_lt h)

theorem afterRounds_phase_ne_idle (k : Nat) (s : State) : (afterRounds k s).phase ≠ .idle := by
  by_cases h : k = 20 <;> simp [afterRounds, h]

theorem afterRounds_rnd_toNat {k : Nat} (h : k ≤ 20) (s : State) : (afterRounds k s).rnd.toNat = k := by
  simp only [afterRounds, BitVec.toNat_ofNat]
  omega

/-- The MIX step does the next round. -/
theorem mixStep_afterRounds {k : Nat} (h : k < 20) (s : State) : mixStep (afterRounds k s) = afterRounds (k + 1) s := by
  have hr := afterRounds_rnd_toNat (Nat.le_of_lt h) s
  have hnext : (afterRounds k s).rnd + 1#5 = BitVec.ofNat 5 (k + 1) := (BitVec.ofNat_add k 1).symm
  have hlast : (afterRounds k s).rnd = 19#5 ↔ k + 1 = 20 := by
    rw [← BitVec.toNat_inj, hr]
    simp
  simp only [mixStep, hr, hnext, hlast, afterRounds_phase_of_lt h]
  rfl

theorem sequencerStep_with_pending (s : State) (es : List HostEvent) :
    sequencerStep { s with pending := es } = { sequencerStep s with pending := es } := by
  cases s with
  | mk _ _ _ _ _ _ phase => cases phase <;> rfl

/-- Running a clock cycle first while a GEN is in progress. -/
theorem runEvents_busy_cycle (b : Beat) (es : List HostEvent) {s : State} (h : s.phase ≠ .idle) :
    ∃ fs, FaultsAdded [b] s.faults fs ∧
      runEvents (.cycle false b false :: es) s = runEvents es { sequencerStep s with faults := fs } := by
  obtain ⟨fs, hc, hfs, _⟩ := clockCycle_sequencerStep b (s := { s with pending := es }) h
  rw [sequencerStep_with_pending] at hc
  have hrun := runEvents_cycle hc rfl
  exact ⟨fs, hfs, hrun⟩

/-- One round for each MIX cycle, whatever the beats; then the other events. -/
theorem runEvents_rounds (bs : List Beat) (es : List HostEvent) {k : Nat} (h : k + bs.length ≤ 20) (s : State) :
    ∃ fs, FaultsAdded bs s.faults fs ∧
      runEvents ((bs.map fun b => .cycle false b false) ++ es) (afterRounds k s) =
        runEvents es (afterRounds (k + bs.length) { s with faults := fs }) := by
  induction bs generalizing k s with
  | nil => exact ⟨s.faults, .nil _, rfl⟩
  | cons b bs ih =>
    rw [List.length_cons, Nat.add_comm bs.length, ← Nat.add_assoc] at h ⊢
    have hk : k < 20 := by omega
    obtain ⟨fs, hfs, hrun⟩ := runEvents_busy_cycle b ((bs.map fun b => .cycle false b false) ++ es)
      (afterRounds_phase_ne_idle k s)
    rw [sequencerStep_mix (afterRounds_phase_of_lt hk s), mixStep_afterRounds hk] at hrun
    obtain ⟨gs, hgs, hrest⟩ := ih h { s with faults := fs }
    exact ⟨gs, hfs.append hgs, hrun.trans hrest⟩

section Gen

variable {s : State} {g : Beat} (hg : g.instr = .gen) (hi : s.phase = .idle) (hl : s.loaded = true)
include hg hi hl

/-- The accept cycle of a GEN and the MIX cycles after it, whatever their beats; then the other events. -/
theorem runEvents_accept_rounds {bs : List Beat} (h : bs.length ≤ 20) (es : List HostEvent) :
    ∃ fs, FaultsAdded bs s.faults fs ∧
      runEvents (.cycle false g false :: ((bs.map fun b => .cycle false b false) ++ es)) s =
        runEvents es (afterRounds bs.length { acceptStep s with faults := fs }) := by
  have ha := clockCycle_accept (s := { s with pending := (bs.map fun b => .cycle false b false) ++ es }) hg hi hl
  obtain ⟨fs, hfs, hrun⟩ := runEvents_rounds bs es (k := 0) (by omega) (acceptStep s)
  rw [afterRounds_zero rfl rfl, Nat.zero_add] at hrun
  exact ⟨fs, hfs, (runEvents_cycle ha rfl).trans hrun⟩

/-- The 22 cycles of a GEN, whatever the beats after the first (R157). -/
theorem runEvents_gen_cycles {bs : List Beat} (h : bs.length = 21) : ∃ fs, FaultsAdded bs s.faults fs ∧
    runEvents ((g :: bs).map fun b => .cycle false b false) s =
      .next { finalStep (afterRounds 20 (acceptStep s)) with faults := fs, pending := [] } := by
  obtain rfl | ⟨init, last, rfl⟩ := bs.eq_nil_or_concat'
  · simp at h
  have hlen : init.length = 20 := by simpa using h
  obtain ⟨fs, hfs, hrun⟩ := runEvents_accept_rounds hg hi hl hlen.le [.cycle false last false]
  rw [hlen] at hrun
  obtain ⟨gs, hgs, hlast⟩ := runEvents_busy_cycle last []
    (afterRounds_phase_ne_idle 20 { acceptStep s with faults := fs })
  rw [sequencerStep_final rfl] at hlast
  refine ⟨gs, hfs.append hgs, ?_⟩
  rw [List.map_cons, List.map_append]
  exact hrun.trans hlast

end Gen

/-- The block of a GEN is BlockFn of its input state (R153). -/
theorem out_finishBlock_rounds20 (s : State) :
    (finishBlock { s with x := rounds20 s.inputState }).out = blockFn s.config.byteOrder s.inputState := by
  rw [blockFn_eq]
  generalize rounds20 s.inputState = w
  rfl

/-- The sequencer's last step leaves what a GEN as one atomic step leaves, at rest (R157). -/
theorem finalStep_afterRounds_acceptStep (s : State) : finalStep (afterRounds 20 (acceptStep s)) =
    { finishBlock { s with x := rounds20 s.inputState } with rnd := 0#5, phase := .idle } := by
  rw [rounds20_eq_roundsUpTo]
  rfl

theorem mixStep_eq {s : State} (h : s.phase = .mix) : mixStep s = { s with
    x := if s.rnd.toNat % 2 = 0 then columnRound s.x else diagonalRound s.x
    phase := if s.rnd = 19#5 then .final else .mix
    rnd := s.rnd + 1#5 } := by
  rw [← h]
  rfl

theorem finalStep_eq (s : State) : finalStep s = { s with
    out := serialize s.config.byteOrder (feedback s.x s.inputState)
    counter := (ctrInc s.config.counterMode s.counter s.nonce[0]).1
    nonce := #v[(ctrInc s.config.counterMode s.counter s.nonce[0]).2, s.nonce[1], s.nonce[2]]
    valid := true
    blocksSinceLoad := s.blocksSinceLoad + 1
    rnd := 0#5
    phase := .idle } := by
  rw [← nonce_set_zero]
  rfl

/-- Settles O44: the step that a busy cycle does is the MIX step, and from `rnd = 0` the rounds are counted one by one. -/
theorem mixStepAppliesOneRound : Obligations.MixStepAppliesOneRound := by
  refine ⟨fun s b h => ?_, fun s bs h hr hlen => ?_⟩
  · obtain ⟨fs, hc, hfs, hfault⟩ := clockCycle_sequencerStep b (s := s) (by simp [h])
    rw [sequencerStep_mix h, mixStep_eq h] at hc
    exact ⟨fs, hc, fun hb => hfs.nops (List.forall_mem_singleton.mpr hb), hfault⟩
  · obtain ⟨fs, _, hrun⟩ := runEvents_rounds bs [] (k := 0) (by omega) s
    rw [List.append_nil, afterRounds_zero h hr, Nat.zero_add, hlen, runEvents_nil] at hrun
    exact ⟨_, hrun, (rounds20_eq_roundsUpTo s.x).symm, rfl, rfl⟩

/-- Settles O45: the step that a busy cycle does is the FINAL step, and `faults` shows on no port. -/
theorem finalStepPublishesTheBlock : Obligations.FinalStepPublishesTheBlock := by
  intro s b h
  obtain ⟨fs, hc, hfs, _⟩ := clockCycle_sequencerStep b (s := s) (by simp [h])
  rw [sequencerStep_final h, finalStep_eq] at hc
  refine ⟨fs, hc, fun hb => hfs.nops (List.forall_mem_singleton.mpr hb), fun t ht => ?_⟩
  cases hc.symm.trans ht
  exact ⟨rfl, rfl⟩

/-- Settles O46: the 22 cycles end as the atomic GEN, but for the faults that the beats added; before that the sequencer has
at most 20 rounds done and is busy. -/
theorem sequencerAgreesWithAtomicGen : Obligations.SequencerAgreesWithAtomicGen := by
  intro s g bs hg hlen hi hr hl
  obtain ⟨fs, hfs, hrun⟩ := runEvents_gen_cycles hg hi hl hlen
  rw [finalStep_afterRounds_acceptStep] at hrun
  refine ⟨_, _, hrun, exec_gen_ok (s := { s with pending := [] }) hi hl, ?_, hfs.kept, hfs.nops, fun k hk => ?_⟩
  · rw [← hr, ← hi]
    rfl
  · obtain ⟨fs, _, hpart⟩ := runEvents_accept_rounds hg hi hl (bs := bs.take k) (by simp; omega) []
    rw [List.append_nil, runEvents_nil] at hpart
    exact ⟨_, hpart, afterRounds_phase_ne_idle _ { acceptStep s with faults := fs }⟩

/-- NOP cycles are cycles of NOP beats. -/
theorem replicate_nopCycle (k : Nat) : List.replicate k nopCycle =
    (List.replicate k (Beat.call .nop)).map fun b => .cycle false b false := by
  rw [List.map_replicate]
  rfl

/-- Settles O47: NOP beats are cycles like any others, so after `k` of them `k` rounds are done, and after 21 the block is
there. -/
theorem timelineOfOneGen : Obligations.TimelineOfOneGen := by
  intro s hi hl
  refine ⟨⟨busy_eq_false.mpr hi, rfl⟩, fun k hk => ?_, ?_⟩
  · obtain ⟨fs, _, hrun⟩ := runEvents_accept_rounds (g := .call .gen) rfl hi hl
      (bs := List.replicate k (.call .nop)) (by simpa using hk) []
    rw [List.append_nil, ← replicate_nopCycle, List.length_replicate, runEvents_nil] at hrun
    have hrnd := afterRounds_rnd_toNat hk { acceptStep s with faults := fs }
    have hbusy := afterRounds_phase_ne_idle k { acceptStep s with faults := fs }
    exact ⟨_, hrun, rfl, hrnd, rfl, busy_eq_true.mpr hbusy, rfl, rfl, rfl⟩
  · obtain ⟨fs, _, hrun⟩ := runEvents_gen_cycles (g := .call .gen) rfl hi hl
      (bs := List.replicate 21 (.call .nop)) List.length_replicate
    rw [List.map_cons, ← replicate_nopCycle, finalStep_afterRounds_acceptStep] at hrun
    exact ⟨_, hrun, rfl, rfl, rfl, rfl, out_finishBlock_rounds20 s, by simp⟩

end Sys2Proof.Machine

/-! ### Runs of GENs and the counter law (42_block_generator.md R160) -/

namespace Sys2Proof.Machine

/-- Words 12 and 13 after `N` increments. -/
def counterAfter (m : CounterMode) (N : Nat) (p : Word × Word) : Word × Word := (Function.uncurry (ctrInc m))^[N] p

theorem counterAfter_succ (m : CounterMode) (N : Nat) (c n : Word) :
    counterAfter m (N + 1) (c, n) = counterAfter m N (ctrInc m c n) := rfl

theorem counterAfter_wrap32 (N : Nat) (c n : Word) : counterAfter .wrap32 N (c, n) = (add32 c (BitVec.ofNat 32 N), n) := by
  induction N generalizing c with
  | zero => simp [counterAfter, add32]
  | succ N ih =>
    have hsum : add32 (add32 c 1#32) (BitVec.ofNat 32 N) = add32 c (BitVec.ofNat 32 (N + 1)) := by
      rw [add32_assoc, add32, add32, add32, Nat.add_comm, BitVec.ofNat_add]
    rw [counterAfter_succ, ctrInc_wrap32, ih, hsum]

/-- Running a GEN first, as one atomic step. -/
theorem runEvents_genCommand (es : List HostEvent) {s : State} (hi : s.phase = .idle) (hl : s.loaded = true) :
    runEvents (genCommand :: es) s = runEvents es (finishBlock { s with x := rounds20 s.inputState }) := by
  have hgen : exec (Beat.call .gen).instr { s with pending := es } =
      .next (finishBlock { s with x := rounds20 s.inputState, pending := es }) := exec_gen_ok hi hl
  generalize rounds20 s.inputState = w at hgen ⊢
  have hrun := runEvents_command hgen rfl
  exact hrun

/-- Running a successful LOAD first, as one atomic step. -/
theorem runEvents_loadCommand (key : Vector Byte 32) (nonce : Vector Byte 12) (c : Word) (es : List HostEvent) {s : State}
    (hi : s.phase = .idle) : runEvents (loadCommand key.toList nonce.toList c :: es) s =
      runEvents es (returnResult .ok (loadInstance (initState s.config key nonce c) s)) := by
  have hrun := runEvents_command (b := .call (.load key.toList nonce.toList c))
    (exec_load_ok c key nonce (s := { s with pending := es }) hi) rfl
  exact hrun

/-- A run of GENs moves the counter and counts its blocks, and leaves the key and words 14 and 15. -/
theorem runEvents_gens (N : Nat) {s : State} (hi : s.phase = .idle) (hl : s.loaded = true) :
    ∃ t, runEvents (List.replicate N genCommand) s = .next t ∧ t.blocksSinceLoad = s.blocksSinceLoad + N ∧
      t.key = s.key ∧ t.counter = (counterAfter s.config.counterMode N (s.counter, s.nonce[0])).1 ∧
      t.nonce = s.nonce.set 0 (counterAfter s.config.counterMode N (s.counter, s.nonce[0])).2 := by
  induction N generalizing s with
  | zero => exact ⟨_, runEvents_nil s, rfl, rfl, rfl, (Vector.set_getElem_self (by decide)).symm⟩
  | succ N ih =>
    have hgen := runEvents_genCommand (List.replicate N genCommand) hi hl
    generalize rounds20 s.inputState = w at hgen
    obtain ⟨t, hrun, hblocks, hkey, hcounter, hnonce⟩ := ih (s := finishBlock { s with x := w }) hi hl
    refine ⟨t, hgen.trans hrun, ?_, hkey, ?_, ?_⟩
    · rw [hblocks, finishBlock_blocksSinceLoad, Nat.add_right_comm, Nat.add_assoc]
    · simpa [counterAfter_succ] using hcounter
    · simpa [counterAfter_succ] using hnonce

theorem vector8_eta (v : Vector Word 8) : #v[v[0], v[1], v[2], v[3], v[4], v[5], v[6], v[7]] = v :=
  Vector.ext fun i hi => match i, hi with
    | 0, _ | 1, _ | 2, _ | 3, _ | 4, _ | 5, _ | 6, _ | 7, _ => rfl

/-- The successive counter values of `N` blocks repeat exactly when `N` is more than the period. -/
theorem counters_distinct_iff (c N : Nat) :
    (∀ i j, i < N → j < N → (c + i) % 2 ^ 32 = (c + j) % 2 ^ 32 → i = j) ↔ N ≤ 2 ^ 32 := by
  constructor
  · intro h
    by_contra hN
    have hwrap : (c + 0) % 2 ^ 32 = (c + 2 ^ 32) % 2 ^ 32 := (Nat.add_mod_right c (2 ^ 32)).symm
    have hzero := h 0 (2 ^ 32) (by omega) (by omega) hwrap
    omega
  · intro hN i j hi hj hij
    omega

/-- Settles O40: the LOAD sets the counter, each GEN adds one to it, and the sum is modulo 2^32. -/
theorem counterAdvancesOncePerBlock : Obligations.CounterAdvancesOncePerBlock := by
  intro s key nonce c N hm hi
  refine ⟨?_, counters_distinct_iff c.toNat N⟩
  obtain ⟨t, hrun, hblocks, hkey, hcounter, hnonce⟩ := runEvents_gens N
    (s := returnResult .ok (loadInstance (initState s.config key nonce c) s)) hi rfl
  simp only [returnResult_config, loadInstance_config, hm, counterAfter_wrap32] at hcounter hnonce
  refine ⟨t, (runEvents_loadCommand key nonce c _ hi).trans hrun, ?_, ?_, ?_, ?_⟩
  · rw [hcounter, add32_toNat]
    simp [initState_counter]
  · simpa using hblocks
  · exact hkey.trans (vector8_eta (keyWords s.config.byteOrder key))
  · rw [hnonce, Vector.set_getElem_self]
    exact vector3_eta (nonceWords s.config.byteOrder nonce)

end Sys2Proof.Machine

/-! ### Equal instances (42_block_generator.md R153) -/

namespace Sys2Proof.Machine

/-- The counter increment as a function of the input state. -/
theorem inputState_incrementCounter (s : State) : (incrementCounter s).inputState =
    (s.inputState.set 12 (ctrInc s.config.counterMode s.inputState[12] s.inputState[13]).1).set 13
      (ctrInc s.config.counterMode s.inputState[12] s.inputState[13]).2 := by
  rw [State.inputState, State.inputState, assemble_set_counter, assemble_set_nonce]
  rfl

/-- The input state after a GEN is a function of the one before it, whatever the working register held. -/
theorem inputState_finishBlock_congr {s s' : State} (hc : s.config = s'.config) (hS : s.inputState = s'.inputState)
    (w w' : Words) : (finishBlock { s with x := w }).inputState = (finishBlock { s' with x := w' }).inputState := by
  rw [inputState_finishBlock, inputState_finishBlock, inputState_incrementCounter, inputState_incrementCounter, hc, hS]

/-- Two machines with an instance, at rest, that agree on all that their next blocks depend on, and on the block in `OUT`
while it is valid. -/
structure SameInstance (s s' : State) : Prop where
  idle : s.phase = .idle
  idle' : s'.phase = .idle
  loaded : s.loaded = true
  loaded' : s'.loaded = true
  config : s.config = s'.config
  inputState : s.inputState = s'.inputState
  valid : s.valid = s'.valid
  blocksSinceLoad : s.blocksSinceLoad = s'.blocksSinceLoad
  out : s.valid = true → s.out = s'.out

namespace SameInstance

variable {s s' : State}

/-- A LOAD makes two machines of one configuration the same instance, whatever they held before. -/
theorem of_load (hi : s.phase = .idle) (hi' : s'.phase = .idle) (hc : s.config = s'.config) (key : Vector Byte 32)
    (nonce : Vector Byte 12) (c : Word) :
    SameInstance (returnResult .ok (loadInstance (initState s.config key nonce c) s))
      (returnResult .ok (loadInstance (initState s'.config key nonce c) s')) where
  idle := hi
  idle' := hi'
  loaded := rfl
  loaded' := rfl
  config := hc
  inputState := by
    rw [inputState_returnResult, inputState_returnResult, inputState_loadInstance_initState,
      inputState_loadInstance_initState, hc]
  valid := rfl
  blocksSinceLoad := rfl
  out h := nomatch h

/-- A GEN keeps them so, and gives both the same block. -/
theorem gen (h : SameInstance s s') : SameInstance (finishBlock { s with x := rounds20 s.inputState })
    (finishBlock { s' with x := rounds20 s'.inputState }) where
  idle := h.idle
  idle' := h.idle'
  loaded := h.loaded
  loaded' := h.loaded'
  config := h.config
  inputState := inputState_finishBlock_congr h.config h.inputState _ _
  valid := rfl
  blocksSinceLoad := congrArg (· + 1) h.blocksSinceLoad
  out _ := by rw [out_finishBlock_rounds20, out_finishBlock_rounds20, h.config, h.inputState]

/-- Every command keeps two machines the same instance. -/
theorem exec_next (h : SameInstance s s') (i : Instr) : ∃ t t', exec i s = .next t ∧ exec i s' = .next t' ∧
    t.pending = s.pending ∧ t'.pending = s'.pending ∧ SameInstance t t' := by
  cases i with
  | nop => exact ⟨s, s', rfl, rfl, rfl, rfl, h⟩
  | rsvd => exact ⟨_, _, rfl, rfl, rfl, rfl, { h with }⟩
  | gen => exact ⟨_, _, exec_gen_ok h.idle h.loaded, exec_gen_ok h.idle' h.loaded', rfl, rfl, h.gen⟩
  | load key nonce c =>
    rcases execLoad_cases key nonce c s with ⟨hb, _⟩ | ⟨_, hlen, he⟩ | ⟨_, k, n, rfl, rfl, he⟩
    · exact absurd h.idle hb
    · exact ⟨_, _, he, exec_load_rejected c h.idle' (not_and_or.mp hlen), rfl, rfl, { h with }⟩
    · exact ⟨_, _, he, exec_load_ok c k n h.idle', rfl, rfl, of_load h.idle h.idle' h.config k n c⟩

/-- So does every list of commands. -/
theorem runEvents_commands (h : SameInstance s s') (cs : List Instr) :
    ∃ t t', runEvents (cs.map fun i => .command (.call i)) s = .next t ∧
      runEvents (cs.map fun i => .command (.call i)) s' = .next t' ∧ SameInstance t t' := by
  induction cs generalizing s s' with
  | nil => exact ⟨_, _, runEvents_nil s, runEvents_nil s', { h with }⟩
  | cons i cs ih =>
    have hp : SameInstance { s with pending := cs.map fun i => .command (.call i) }
        { s' with pending := cs.map fun i => .command (.call i) } := { h with }
    obtain ⟨t, t', he, he', hpend, hpend', hsame⟩ := hp.exec_next i
    rw [List.map_cons, runEvents_command (b := .call i) he hpend, runEvents_command (b := .call i) he' hpend']
    exact ih hsame

end SameInstance

/-- Settles O42: the LOAD makes the two machines the same instance, and every command keeps them so. -/
theorem equalInstancesGiveEqualBlocks : Obligations.EqualInstancesGiveEqualBlocks := by
  refine ⟨blockFn_eq, fun s s' hi hi' hl hl' hc hS => ?_, fun s s' key nonce c cs hi hi' hc => ?_⟩
  · refine ⟨_, _, exec_gen_ok hi hl, exec_gen_ok hi' hl', out_finishBlock_rounds20 s, ?_,
      (inputState_finishBlock_congr hc hS _ _).symm⟩
    rw [out_finishBlock_rounds20, out_finishBlock_rounds20, hc, hS]
  · obtain ⟨t, t', hrun, hrun', hsame⟩ := (SameInstance.of_load hi hi' hc key nonce c).runEvents_commands cs
    exact ⟨t, t', (runEvents_loadCommand key nonce c _ hi).trans hrun,
      (runEvents_loadCommand key nonce c _ hi').trans hrun', hsame.inputState, hsame.valid, hsame.blocksSinceLoad,
      hsame.out⟩

end Sys2Proof.Machine

/-! ### XorStream and its keystream (43_stream_cipher_host.md R190, R191, R193) -/

namespace Sys2Proof.Machine

/-- The machine after a GENR that is accepted: one block completed, and taken by the host. -/
def afterGenr (s : State) : State :=
  { finishBlock { s with x := rounds20 s.inputState } with
    blocksRead := s.blocksRead ++ [blockFn s.config.byteOrder s.inputState] }

@[simp] theorem afterGenr_phase (s : State) : (afterGenr s).phase = s.phase := rfl
@[simp] theorem afterGenr_loaded (s : State) : (afterGenr s).loaded = s.loaded := rfl
@[simp] theorem afterGenr_config (s : State) : (afterGenr s).config = s.config := rfl
@[simp] theorem afterGenr_faults (s : State) : (afterGenr s).faults = s.faults := rfl
@[simp] theorem afterGenr_blocksSinceLoad (s : State) : (afterGenr s).blocksSinceLoad = s.blocksSinceLoad + 1 := rfl

theorem afterGenr_inputState (s : State) : (afterGenr s).inputState = (incrementCounter s).inputState :=
  inputState_finishBlock (rounds20 s.inputState) s

/-- Both counter modes add one to the counter word. -/
theorem ctrInc_counter (m : CounterMode) (c n : Word) : (ctrInc m c n).1 = add32 c 1#32 := by
  cases m with
  | wrap32 | carry64 => rfl

@[simp] theorem afterGenr_counter (s : State) : (afterGenr s).counter = add32 s.counter 1#32 :=
  ctrInc_counter s.config.counterMode s.counter s.nonce[0]

/-- GENR on a machine at rest with an instance gives the block of its input state. -/
theorem genr_ok {s : State} (hi : s.phase = .idle) (hl : s.loaded = true) :
    genr s = (some (blockFn s.config.byteOrder s.inputState), afterGenr s) := by
  have hok : beatOutcome .gen s = .ok := by simp [beatOutcome, busy_eq_false.mpr hi, hl]
  have hv : (finishBlock { s with x := rounds20 s.inputState }).valid = true := rfl
  simp only [genr, exec_gen_ok hi hl, hok, if_true, State.readBlock, hv, hostRead_valid hv, out_finishBlock_rounds20,
    finishBlock_blocksRead, afterGenr]

/-- The bytes of the next `m` blocks of an instance, one block after the other. -/
def keystream : Nat → State → List Byte
  | 0, _ => []
  | m + 1, s => (blockFn s.config.byteOrder s.inputState).toList ++ keystream m (incrementCounter s)

@[simp] theorem length_keystream (m : Nat) (s : State) : (keystream m s).length = 64 * m := by
  induction m generalizing s with
  | zero => rfl
  | succ m ih =>
    rw [keystream, List.length_append, Vector.length_toList, ih]
    omega

/-- The keystream is a function of the configuration and the input state (R153). -/
theorem keystream_congr (m : Nat) {s s' : State} (hc : s.config = s'.config) (hS : s.inputState = s'.inputState) :
    keystream m s = keystream m s' := by
  induction m generalizing s s' with
  | zero => rfl
  | succ m ih =>
    have hnext : (incrementCounter s).inputState = (incrementCounter s').inputState := by
      rw [inputState_incrementCounter, inputState_incrementCounter, hc, hS]
    rw [keystream, keystream, hc, hS, ih (s := incrementCounter s) (s' := incrementCounter s') hc hnext]

/-- A message XOR the keystream bytes at its places, as far as both go. -/
def xorKeystream (msg ks : List Byte) : List Byte := List.zipWith (· ^^^ ·) msg ks

/-- XOR with a block and then with the rest of the keystream is XOR with the whole. -/
theorem xorKeystream_append (msg : List Byte) (b : Block) (ks : List Byte) :
    xorBytes (msg.take 64) b ++ xorKeystream (msg.drop 64) ks = xorKeystream msg (b.toList ++ ks) := by
  have hb : b.toList.length = 64 := Vector.length_toList ..
  calc xorBytes (msg.take 64) b ++ xorKeystream (msg.drop 64) ks
      = (xorKeystream msg (b.toList ++ ks)).take 64 ++ (xorKeystream msg (b.toList ++ ks)).drop 64 := by
        simp only [xorKeystream, List.take_zipWith, List.drop_zipWith, List.take_left' hb, List.drop_left' hb]
        rfl
    _ = xorKeystream msg (b.toList ++ ks) := List.take_append_drop ..

/-- Where there is keystream enough, XOR with it undoes itself: `(m ^ k) ^ k = m`. -/
theorem xorKeystream_cancel {msg ks : List Byte} (h : msg.length ≤ ks.length) :
    xorKeystream (xorKeystream msg ks) ks = msg := by
  refine List.ext_getElem (by simp [xorKeystream, h]) fun i _ _ => ?_
  simp [xorKeystream]

theorem length_xorKeystream {msg ks : List Byte} (h : msg.length ≤ ks.length) :
    (xorKeystream msg ks).length = msg.length := by
  simp [xorKeystream, h]

/-- The loop of XorStream on a machine at rest with an instance: no GEN faults, and its blocks are the keystream. -/
theorem xorBlocks_eq (m : Nat) (msg : List Byte) {s : State} (hi : s.phase = .idle) (hl : s.loaded = true) :
    xorBlocks m msg s = (some (xorKeystream msg (keystream m s)), afterGenr^[m] s) := by
  induction m generalizing msg s with
  | zero => simp [xorBlocks, xorKeystream, keystream]
  | succ m ih =>
    have hks : keystream m (afterGenr s) = keystream m (incrementCounter s) :=
      keystream_congr m rfl (afterGenr_inputState s)
    simp only [xorBlocks, genr_ok hi hl, ih (msg.drop 64) (s := afterGenr s) hi hl, hks, xorKeystream_append]
    rfl

theorem xorStream_eq (msg : List Byte) {s : State} (hi : s.phase = .idle) (hl : s.loaded = true) :
    xorStream msg s =
      (some (xorKeystream msg (keystream (blocksFor msg.length) s)), afterGenr^[blocksFor msg.length] s) :=
  xorBlocks_eq _ msg hi hl

/-- What `m` GENRs count: the blocks, and the counter word modulo 2^32 (R190); none of them faults. -/
theorem afterGenr_iterate_counts (m : Nat) (s : State) :
    (afterGenr^[m] s).blocksSinceLoad = s.blocksSinceLoad + m ∧
      (afterGenr^[m] s).counter.toNat = (s.counter.toNat + m) % 2 ^ 32 ∧ (afterGenr^[m] s).faults = s.faults := by
  induction m generalizing s with
  | zero => exact ⟨rfl, (Nat.mod_eq_of_lt s.counter.isLt).symm, rfl⟩
  | succ m ih =>
    obtain ⟨hblocks, hcounter, hfaults⟩ := ih (afterGenr s)
    have hone : (afterGenr s).counter.toNat = (s.counter.toNat + 1) % 2 ^ 32 := by
      rw [afterGenr_counter, add32_toNat]
      rfl
    rw [Function.iterate_succ_apply]
    refine ⟨?_, ?_, hfaults⟩
    · rw [hblocks, afterGenr_blocksSinceLoad, Nat.add_right_comm, Nat.add_assoc]
    · rw [hcounter, hone]
      omega

/-- The blocks of a message have at least a byte for each of its bytes. -/
theorem length_le_keystream (n : Nat) (s : State) : n ≤ (keystream (blocksFor n) s).length := by
  rw [length_keystream, blocksFor]
  omega

/-- R191: the number of blocks is the quotient rounded up. -/
theorem blocksFor_eq_ceil (n : Nat) : blocksFor n = ⌈(n : ℚ) / 64⌉₊ := by
  refine eq_of_forall_ge_iff fun c => ?_
  have hcast : (n : ℚ) / 64 ≤ c ↔ n ≤ c * 64 := by
    rw [div_le_iff₀ (by norm_num)]
    norm_cast
  rw [Nat.ceil_le, hcast, blocksFor]
  omega

/-- Settles O57: the loop reads the keystream of as many blocks as it is given, and each GENR counts one. -/
theorem xorStreamKeepsLengthAndCountsBlocks : Obligations.XorStreamKeepsLengthAndCountsBlocks := by
  refine ⟨fun s msg hi hl => ⟨_, _, xorStream_eq msg hi hl, length_xorKeystream (length_le_keystream _ s),
    afterGenr_iterate_counts _ s⟩, blocksFor_eq_ceil, rfl, fun n h1 h2 => ?_, fun n h1 h2 => ?_, rfl⟩
  · unfold blocksFor
    omega
  · unfold blocksFor
    omega

end Sys2Proof.Machine

/-! ### Decryption (43_stream_cipher_host.md R194) -/

namespace Sys2Proof.Machine

/-- XorStream of a result, on a machine that is the same instance as the one it came from, gives the message back. -/
theorem SameInstance.xorStream_xorStream {s s' : State} (h : SameInstance s s') (msg : List Byte) :
    ∃ e u u', xorStream msg s = (some e, u) ∧ xorStream e s' = (some msg, u') := by
  have hlen := length_le_keystream msg.length s
  refine ⟨_, _, afterGenr^[blocksFor msg.length] s', xorStream_eq msg h.idle h.loaded, ?_⟩
  rw [xorStream_eq _ h.idle' h.loaded', length_xorKeystream hlen,
    ← keystream_congr _ h.config h.inputState, xorKeystream_cancel hlen]

/-- The machine of V-STR-1: default configuration, all-zero key and nonce, counter 0. -/
def zeroInstance : State :=
  { State.reset with key := Vector.replicate 8 0, counter := 0, nonce := Vector.replicate 3 0, loaded := true }

/-- A message of one byte uses one block. -/
theorem xorStream_byte (a : Byte) {s : State} (hi : s.phase = .idle) (hl : s.loaded = true) :
    xorStream [a] s = (some (xorKeystream [a] (keystream 1 s)), afterGenr s) := by
  have hone : blocksFor [a].length = 1 := by simp [blocksFor]
  rw [xorStream_eq [a] hi hl, hone, Function.iterate_one]

/-- V-STR-1: the first keystream byte is `0x76`. -/
theorem xorStream_zeroInstance : xorStream [0x41] zeroInstance = (some [0x37], afterGenr zeroInstance) := by
  have hks : xorKeystream [0x41] (keystream 1 zeroInstance) = [0x37] := by decide +kernel
  rw [xorStream_byte _ rfl rfl, hks]

/-- The next block begins with `0x9f`, so a second call does not give `0x41` back. -/
theorem xorStream_afterGenr_zeroInstance :
    xorStream [0x37] (afterGenr zeroInstance) = (some [0xa8], afterGenr (afterGenr zeroInstance)) := by
  have hks : xorKeystream [0x37] (keystream 1 (afterGenr zeroInstance)) = [0xa8] := by decide +kernel
  rw [xorStream_byte _ rfl rfl, hks]

/-- Settles O59: the LOAD makes the two machines the same instance, so both calls see one keystream; on one machine, the
second call uses the next block. -/
theorem decryptingAnEncryptionGivesTheMessage : Obligations.DecryptingAnEncryptionGivesTheMessage := by
  refine ⟨fun s s' key nonce c msg hi hi' hc => ?_, ?_⟩
  · obtain ⟨e, u, u', he, hd⟩ := (SameInstance.of_load hi hi' hc key nonce c).xorStream_xorStream msg
    exact ⟨_, _, e, u, u', exec_load_ok c key nonce hi, exec_load_ok c key nonce hi', he, hd⟩
  · exact ⟨zeroInstance, _, _, [0x41], [0x37], [0xa8], rfl, rfl, xorStream_zeroInstance,
      afterGenr_counter zeroInstance, xorStream_afterGenr_zeroInstance, by decide⟩

end Sys2Proof.Machine

/-! ### The one outcome of a beat (60_exceptions.md R210, R214) -/

namespace Sys2Proof.Machine

section BeatOutcome

variable {s : State}

theorem beatOutcome_gen_busy (h : s.busy = true) : beatOutcome .gen s = .fault (.busy .gen) := if_pos h

theorem beatOutcome_gen_notLoaded (h : s.busy = false) (hl : s.loaded = false) :
    beatOutcome .gen s = .fault (.notLoaded .gen) := by simp [beatOutcome, h, hl]

theorem beatOutcome_gen_ok (h : s.busy = false) (hl : s.loaded = true) : beatOutcome .gen s = .ok := by
  simp [beatOutcome, h, hl]

variable (ctr : Word)

theorem beatOutcome_load_busy (key nonce : List Byte) (h : s.busy = true) :
    beatOutcome (.load key nonce ctr) s = .fault (.busy .load) := if_pos h

theorem beatOutcome_load_rejected {key nonce : List Byte} (h : s.busy = false)
    (hl : ¬(key.length = 32 ∧ nonce.length = 12)) :
    beatOutcome (.load key nonce ctr) s = .error .invalidKeyMaterial := by simp [beatOutcome, h, hl]

theorem beatOutcome_load_ok {key nonce : List Byte} (h : s.busy = false) (hk : key.length = 32)
    (hn : nonce.length = 12) : beatOutcome (.load key nonce ctr) s = .ok := by simp [beatOutcome, h, hk, hn]

end BeatOutcome

/-- What R210 lets a command with a given outcome do to the state `s`: `ok` records no fault, a fault is only recorded, an
error only reaches the host. -/
def OutcomeEffect (s t : State) : CommandOutcome → Prop
  | .ok => t.faults = s.faults
  | .error _ => ∃ rs, t = { s with results := rs }
  | .fault f => t = recordFault f s

/-- Every command does what its outcome says. -/
theorem exec_outcomeEffect (i : Instr) (s : State) : ∃ t, exec i s = .next t ∧ OutcomeEffect s t (beatOutcome i s) := by
  cases i with
  | nop => exact ⟨s, rfl, rfl⟩
  | rsvd => exact ⟨_, rfl, rfl⟩
  | gen =>
    rcases execGen_cases s with ⟨hb, he⟩ | ⟨hi, hl, he⟩ | ⟨hi, hl, he⟩
    · rw [beatOutcome_gen_busy (busy_eq_true.mpr hb)]
      exact ⟨_, he, rfl⟩
    · rw [beatOutcome_gen_notLoaded (busy_eq_false.mpr hi) hl]
      exact ⟨_, he, rfl⟩
    · rw [beatOutcome_gen_ok (busy_eq_false.mpr hi) hl]
      exact ⟨_, he, rfl⟩
  | load key nonce ctr =>
    rcases execLoad_cases key nonce ctr s with ⟨hb, he⟩ | ⟨hi, hl, he⟩ | ⟨hi, k, n, rfl, rfl, he⟩
    · rw [beatOutcome_load_busy ctr key nonce (busy_eq_true.mpr hb)]
      exact ⟨_, he, rfl⟩
    · rw [beatOutcome_load_rejected ctr (busy_eq_false.mpr hi) hl]
      exact ⟨_, he, _, rfl⟩
    · rw [beatOutcome_load_ok ctr (busy_eq_false.mpr hi) k.length_toList n.length_toList]
      exact ⟨_, he, rfl⟩

/-- Settles O15: the outcome by its branches, and the effect of the command by its outcome. -/
theorem oneOutcomeInPriorityOrder : Obligations.OneOutcomeInPriorityOrder := by
  refine fun s => ⟨rfl, beatOutcome_gen_busy, fun h key nonce ctr => beatOutcome_load_busy ctr key nonce h,
    beatOutcome_gen_notLoaded, fun h _ _ ctr => beatOutcome_load_rejected ctr h,
    ⟨rfl, beatOutcome_gen_ok, fun h _ _ ctr => beatOutcome_load_ok ctr h⟩,
    fun i ho => ?_, fun i f ho => ?_, fun i e ho => ?_⟩
  all_goals
    obtain ⟨t, he, hE⟩ := exec_outcomeEffect i s
    rw [ho] at hE
  · exact ⟨t, he, hE⟩
  · exact he.trans (congrArg _ hE)
  · obtain ⟨rs, ht⟩ := hE
    exact ⟨rs, he.trans (congrArg _ ht)⟩

end Sys2Proof.Machine

/-! ### Two events in one clock cycle (60_exceptions.md R215) -/

namespace Sys2Proof.Machine

/-- A fault recorded earlier in the cycle does not change what a beat reports. -/
theorem beatOutcome_recordFault (i : Instr) (f : Fault) (s : State) :
    beatOutcome i (recordFault f s) = beatOutcome i s := by
  cases i <;> rfl

/-- A READ while `valid = 0` only records its fault ahead of the rest of the cycle. -/
theorem clockCycle_read_invalid (rst : Bool) (b : Beat) {s : State} (h : s.valid = false) :
    clockCycle rst b true s = clockCycle rst b false (recordFault .readInvalid s) := by
  simp [clockCycle, State.busy, hostRead_invalid h]

/-- A cycle while a GEN is in progress adds the fault that the beat reports, and no other. -/
theorem clockCycle_busy_faults (b : Beat) {s : State} (h : s.phase ≠ .idle) : ∃ fs,
    clockCycle false b false s = .next { sequencerStep s with faults := fs } ∧
    ∀ f, f ∈ fs ↔ beatOutcome b.instr s = .fault f ∨ f ∈ s.faults := by
  rcases clockCycle_busy b h with ⟨hc, hb⟩ | ⟨f, hc, hf⟩
  · exact ⟨(sequencerStep s).faults, hc, by simp [hb, beatOutcome]⟩
  · rw [recordFault_sequencerStep] at hc
    exact ⟨_, hc, by simp [hf, eq_comm]⟩

/-- Settles O49: reset is tested before the beat; a beat beside the FINAL step adds its own fault; a READ adds its fault ahead
of both. -/
theorem eventsInOneCycle : Obligations.EventsInOneCycle := by
  refine ⟨fun s b => ⟨rfl, rfl⟩, fun s b h => ?_, fun s b h hv => ?_, mem_insertFault⟩
  · have hbusy : s.phase ≠ .idle := by simp [h]
    rw [← sequencerStep_final h]
    refine ⟨fun hb => clockCycle_gen_busy hb hbusy, fun key nonce ctr hb => ?_⟩
    rw [clockCycle_load_busy ctr hb hbusy, recordFault_sequencerStep]
  · obtain ⟨fs, hc, hfs⟩ := clockCycle_busy_faults b (s := recordFault .readInvalid s) (by simp [h])
    rw [← clockCycle_read_invalid false b hv, sequencerStep_recordFault, sequencerStep_final h] at hc
    refine ⟨_, hc, rfl, rfl, fun f => ?_⟩
    simp [hfs, beatOutcome_recordFault, or_left_comm]

end Sys2Proof.Machine

/-! ### Encoding and decoding undo each other (30_encoding.md R80 to R84) -/

namespace Sys2Proof

/-- Byte `i` of a field that holds the lanes of a byte sequence. -/
theorem extractLsb'_of_lanes {n : Nat} {v : BitVec n} {bs : List Byte} (h : v.toNat = lanes bs) {i : Nat}
    (hi : i < bs.length) : v.extractLsb' (8 * i) 8 = bs[i] := by
  apply BitVec.eq_of_toNat_eq
  rw [BitVec.extractLsb'_toNat, Nat.shiftRight_eq_div_pow, h, lanes_byte, List.getElem?_eq_getElem hi, Option.getD_some]

/-- The lanes of a field read byte by byte are the field. -/
theorem lanes_extractLsb' (n : Nat) (v : BitVec (8 * n)) :
    lanes ((List.range n).map fun i => v.extractLsb' (8 * i) 8) = v.toNat := by
  have hbyte (i : Nat) : v.extractLsb' (8 * i) 8 = BitVec.ofNat 8 (v.toNat / 256 ^ i) := by
    rw [BitVec.extractLsb', Nat.shiftRight_eq_div_pow, pow_mul]
    rfl
  have hfits : v.toNat < 256 ^ n := by
    rw [show (256 : Nat) = 2 ^ 8 from rfl, ← pow_mul]
    exact v.isLt
  simp only [hbyte]
  rw [lanes_range, Nat.mod_eq_of_lt hfits]

theorem map_keyByte (w : CommandWord) : (List.range 32).map (keyByte w) =
    (List.range 32).map fun i => (w.extractLsb' 2 256).extractLsb' (8 * i) 8 :=
  List.map_congr_left fun _ hi => keyByte_eq_lane w (List.mem_range.mp hi)

theorem map_nonceByte (w : CommandWord) : (List.range 12).map (nonceByte w) =
    (List.range 12).map fun i => (w.extractLsb' 258 96).extractLsb' (8 * i) 8 :=
  List.map_congr_left fun _ hi => nonceByte_eq_lane w (List.mem_range.mp hi)

/-- A list that has the bytes of a field at its places. -/
theorem map_lane_eq {n : Nat} {v : BitVec n} {bs : List Byte} (h : v.toNat = lanes bs) :
    ((List.range bs.length).map fun i => v.extractLsb' (8 * i) 8) = bs := by
  refine List.ext_getElem (by simp) fun i _ hi => ?_
  rw [List.getElem_map, List.getElem_range, extractLsb'_of_lanes h hi]

section LoadWord

variable {key nonce : List Byte} (ctr : Word) (hk : key.length = 32) (hn : nonce.length = 12)
include hk hn

/-- The three operand fields of a LOAD's word hold the operands: no field overflows into the next (R80, R91). -/
theorem encode_load_fields :
    ((encode (.load key nonce ctr)).extractLsb' 2 256).toNat = lanes key ∧
      ((encode (.load key nonce ctr)).extractLsb' 258 96).toNat = lanes nonce ∧
      (encode (.load key nonce ctr)).extractLsb' 354 32 = ctr := by
  have hword := encode_load_toNat key nonce ctr hk hn
  have hkey := lanes_lt key
  have hnonce := lanes_lt nonce
  have hctr := ctr.isLt
  rw [hk] at hkey
  rw [hn] at hnonce
  norm_num at hkey hnonce hctr
  refine ⟨?_, ?_, BitVec.eq_of_toNat_eq ?_⟩
  all_goals
    rw [BitVec.extractLsb'_toNat, Nat.shiftRight_eq_div_pow, hword]
    omega

theorem decode_encode_load : decode (encode (.load key nonce ctr)) = .load key nonce ctr := by
  obtain ⟨hkey, hnonce, hctr⟩ := encode_load_fields ctr hk hn
  have hkeys := map_lane_eq hkey
  have hnonces := map_lane_eq hnonce
  rw [hk] at hkeys
  rw [hn] at hnonces
  rw [decode_load (Laws.EncodedCommandCode.load key nonce ctr), map_keyByte, map_nonceByte, hkeys, hnonces, ctrField, hctr]

end LoadWord

theorem lengths_of_wellFormed {key nonce : List Byte} {ctr : Word} (h : (Instr.load key nonce ctr).wellFormed = true) :
    key.length = 32 ∧ nonce.length = 12 := by
  simpa [Instr.wellFormed, wellFormedKey, wellFormedNonce, Config.keyBytes, Config.nonceBytes] using h

/-- Settles O6: `cmd` selects the command, and each operand field of a LOAD is read back from its own bits. -/
theorem decodeOfEncodeIsTheInstruction : Obligations.DecodeOfEncodeIsTheInstruction := by
  intro i hi
  cases i with
  | nop => exact decode_nop Laws.EncodedCommandCode.nop
  | gen => exact decode_gen Laws.EncodedCommandCode.gen
  | rsvd => exact decode_rsvd Laws.EncodedCommandCode.rsvd
  | load key nonce ctr =>
    obtain ⟨hk, hn⟩ := lengths_of_wellFormed hi
    exact decode_encode_load ctr hk hn

/-- The four codes of the field `cmd` (R81). -/
theorem cmdField_cases (w : CommandWord) :
    cmdField w = 0b00#2 ∨ cmdField w = 0b01#2 ∨ cmdField w = 0b10#2 ∨ cmdField w = 0b11#2 := by
  have hall : ∀ c : BitVec 2, c = 0b00#2 ∨ c = 0b01#2 ∨ c = 0b10#2 ∨ c = 0b11#2 := by decide
  exact hall (cmdField w)

/-- The fields of a LOAD's word, put together, are the word (R91). -/
theorem encode_decode_load {w : CommandWord} (h : cmdField w = 0b01#2) : encode (decode w) = w := by
  have hcmd : w.toNat % 4 = 1 := by simpa [cmdField] using congrArg BitVec.toNat h
  have hw := w.isLt
  apply BitVec.eq_of_toNat_eq
  rw [decode_load h, encode_load_toNat _ _ _ (by simp) (by simp), map_keyByte, map_nonceByte,
    lanes_extractLsb' 32, lanes_extractLsb' 12, ctrField]
  simp only [BitVec.extractLsb'_toNat, Nat.shiftRight_eq_div_pow]
  norm_num at hw ⊢
  omega

theorem decode_wellFormed (w : CommandWord) : (decode w).wellFormed = true := by
  rcases cmdField_cases w with h | h | h | h
  · rw [decode_nop h]; rfl
  · rw [decode_load h]; simp [Instr.wellFormed, wellFormedKey, wellFormedNonce, Config.keyBytes, Config.nonceBytes]
  · rw [decode_gen h]; rfl
  · rw [decode_rsvd h]; rfl

/-- Settles O7: every word has one of four codes; a LOAD's word is the sum of its fields, and of the others only `cmd` is
kept. -/
theorem encodeOfDecodeKeepsEveryUsedBit : Obligations.EncodeOfDecodeKeepsEveryUsedBit := by
  refine fun w => ⟨decode_wellFormed w, encode_decode_load, fun hne => ?_⟩
  rcases cmdField_cases w with h | h | h | h
  · rw [decode_nop h, h]; rfl
  · exact absurd h hne
  · rw [decode_gen h, h]; rfl
  · rw [decode_rsvd h, h]; rfl

/-- Settles O10: `cmd` decides the words of the commands without operands, and the two LOAD words are encodings. -/
theorem writtenOutWordsDecode : Obligations.WrittenOutWordsDecode := by
  have hbyte : encode (.load (0x01 :: List.replicate 31 0x00) (List.replicate 12 0x00) 0) = 0x5#386 := by decide +kernel
  have hctr : encode (.load (List.replicate 32 0x00) (List.replicate 12 0x00) 0x80000000) =
      BitVec.ofNat 386 (1 + 2 ^ 385) := by decide +kernel
  refine ⟨Machine.decode_zero, decode_gen (by decide), decode_rsvd (by decide), decode_nop (by decide),
    decode_gen (by decide), decode_rsvd (by decide), ?_, ?_⟩
  · rw [← hbyte]
    exact decode_encode_load 0 (by simp) (by simp)
  · rw [← hctr]
    exact decode_encode_load 0x80000000 (by simp) (by simp)

end Sys2Proof

/-! ### Power-on, reset and the oldest event (10_state.md R39, 70_reset_and_hazards.md R240, 20_memory.md R69) -/

namespace Sys2Proof.Machine

/-- Settles O1: the fields of `powerOn`, and the constants that every state reads. -/
theorem powerOnLeavesTheResetValues : Obligations.PowerOnLeavesTheResetValues :=
  ⟨fun c source => ⟨_, rfl, rfl, rfl, rfl, rfl, rfl, rfl, rfl, inputState_constant (State.powerOn c source)⟩, rfl, rfl, rfl⟩

theorem clockCycle_reset (b : Beat) (s : State) : clockCycle true b false s = .next (resetEvent s) := rfl

/-- A cycle with `rst = 1` does what the reset event does, whatever the beat. -/
theorem present_reset {e : HostEvent} (h : e = .reset ∨ ∃ b, e = .cycle true b false) (s : State) :
    present e s = .next (resetEvent s) := by
  rcases h with rfl | ⟨b, rfl⟩
  · rfl
  · exact clockCycle_reset b s

/-- Settles O2: in both forms the step is the reset event on the rest of the host's events. -/
theorem resetEventGivesTheResetValues : Obligations.ResetEventGivesTheResetValues :=
  fun _ _ _ he hp => (step_cons hp).trans (present_reset he _)

/-- Settles O3: the reset event leaves an idle machine without an instance and without a block. -/
theorem resetAbandonsAGenInProgress : Obligations.ResetAbandonsAGenInProgress :=
  fun s rest b _ hp => ⟨_, (step_cons hp).trans (clockCycle_reset b { s with pending := rest }), rfl, rfl, rfl, rfl, rfl,
    exec_gen_notLoaded rfl rfl⟩

/-- Settles O4: no effect of a step writes the configuration. -/
theorem configurationNeverChanges : Obligations.ConfigurationNeverChanges := fun _ _ => step_config

/-- Settles O14: a step always has one of the effects. -/
theorem everyStepGoesOn : Obligations.EveryStepGoesOn := fun s =>
  have ⟨_, t, _, ht, _⟩ := step_effect s
  ⟨t, ht⟩

/-- What the decoder reads from a table word is what the event that presents the word decodes to. -/
theorem decode_of_decodeTableWord {nbits w : Nat} {i : Instr} (h : decodeTableWord nbits w = some i) :
    decode (BitVec.ofNat 386 (w % 2 ^ nbits)) = i := by
  unfold decodeTableWord decodeNat at h
  split at h
  · rename_i heq
    split at heq
    · cases heq
      exact Option.some.inj h
    · cases heq
  · cases h

/-- Settles O13: the step performs the event at the head of the list, and a table word is presented as a command. -/
theorem stepRunsTheOldestEvent : Obligations.StepRunsTheOldestEvent := by
  refine fun s rest => ⟨fun _ => step_cons, fun _ => step_cons, step_cons, step_cons, fun _ _ _ => step_cons,
    fun hp => ?_, fun nbits w i h => ?_⟩
  · exact (step_nil hp).trans (clockCycle_of_nop (b := .word 0) decode_zero s).symm
  · rw [← decode_of_decodeTableWord h]
    rfl

/-! ### Several instances (60_exceptions.md R223) -/

/-- Since every step goes on, a step of instance `k` rewrites the `k`-th entry of the list and nothing else. -/
theorem stepInstance_eq_modify {f : State → State} (hf : ∀ s, step s = .next (f s)) (k : Nat) (sys : List State) :
    stepInstance k sys = sys.modify k f := by
  unfold stepInstance
  cases hk : sys[k]? with
  | none => exact (List.modify_eq_self (List.getElem?_eq_none_iff.mp hk)).symm
  | some s =>
    simp only [hf]
    rw [List.modify_eq_set_getElem?, hk]
    rfl

/-- Settles O60: rewriting one entry of a list leaves the others, and rewriting two entries commutes. -/
theorem instancesShareNoState : Obligations.InstancesShareNoState := by
  choose f hf using everyStepGoesOn
  simp only [Obligations.InstancesShareNoState, stepInstance_eq_modify hf]
  refine ⟨fun sys j k hjk => ⟨?_, List.length_modify ..⟩, fun sys k s hk => ⟨f s, hf s, ?_⟩, fun sys j k hjk => ?_⟩
  · exact List.getElem?_modify_ne f sys hjk.symm
  · simp [hk]
  · exact List.modify_modify_ne f f sys hjk.symm

/-! ### READ (70_reset_and_hazards.md R244) -/

/-- A READ while `valid = 1` only lists the block ahead of the rest of the cycle. -/
theorem clockCycle_read_valid (rst : Bool) (b : Beat) {s : State} (h : s.valid = true) :
    clockCycle rst b true s = clockCycle rst b false { s with blocksRead := s.blocksRead ++ [s.out] } := by
  simp [clockCycle, State.busy, hostRead_valid h]

/-- Settles O50: a READ event is `hostRead`, and the READ of a cycle is done ahead of the rest of the cycle, which in an IDLE
cycle with NOP is nothing. -/
theorem readTakesAValidBlockOnly : Obligations.ReadTakesAValidBlockOnly := by
  refine ⟨fun s rest hp hv => ?_, fun s rest hp hv => ⟨_, ?_, fun f => mem_insertFault ..⟩, fun s b hb hi hv => ?_,
    fun s b hb hi hv => ⟨_, ?_, fun f => mem_insertFault ..⟩,
    fun s rst b => ⟨clockCycle_read_valid rst b, clockCycle_read_invalid rst b⟩⟩
  · exact (step_cons hp).trans (congrArg _ (hostRead_valid (s := { s with pending := rest }) hv))
  · exact (step_cons hp).trans (congrArg _ (hostRead_invalid (s := { s with pending := rest }) hv))
  · rw [clockCycle_read_valid false b hv, clockCycle_of_nop hb, sequencerStep_idle]
    exact hi
  · rw [clockCycle_read_invalid false b hv, clockCycle_of_nop hb, sequencerStep_idle]
    · rfl
    · exact hi

end Sys2Proof.Machine

/-! ### The invariant (10_state.md R27 to R32, R37; 42_block_generator.md R141) -/

namespace Sys2Proof.Machine

theorem SameBlock.previousInput {s r : State} (h : SameBlock s r) : r.previousInput = s.previousInput := by
  simp only [State.previousInput, h.config, h.inputState, h.counter, h.nonce]

theorem SameBlock.faultsCanonical {s r : State} (h : SameBlock s r) (hs : faultsCanonical s.faults) :
    faultsCanonical r.faults := by
  rcases h.faults with hf | hf <;> rw [hf]
  · exact hs
  · exact insertFault_canonical .readInvalid hs

section Inv

variable {s r : State}

/-- The invariant reads nothing that a READ or the list of pending events can change but `faults`. -/
theorem Inv.of_sameBlock (h : Inv s) (hr : SameBlock s r) : Inv r where
  faults := hr.faultsCanonical h.faults
  idle := by simpa only [hr.phase, hr.rnd] using h.idle
  mix := by simpa only [hr.phase, hr.rnd, hr.x, hr.inputState] using h.mix
  final := by simpa only [hr.phase, hr.rnd, hr.x, hr.inputState] using h.final
  busy := by simpa only [hr.phase, hr.loaded, hr.valid] using h.busy
  valid := by
    simpa only [hr.valid, hr.loaded, hr.blocksSinceLoad, hr.out, hr.config, hr.previousInput] using h.valid
  unloaded := by simpa only [hr.loaded, hr.blocksSinceLoad] using h.unloaded

/-- While no GEN is in progress, the clauses about one say nothing. -/
theorem Inv.of_idle (hf : faultsCanonical s.faults) (hi : s.phase = .idle) (hr : s.rnd = 0#5)
    (hv : s.valid = true →
      s.loaded = true ∧ 0 < s.blocksSinceLoad ∧ s.out = blockFn s.config.byteOrder s.previousInput)
    (hu : s.loaded = false → s.blocksSinceLoad = 0) : Inv s where
  faults := hf
  idle _ := hr
  mix h := nomatch hi.symm.trans h
  final h := nomatch hi.symm.trans h
  busy h := absurd hi h
  valid := hv
  unloaded := hu

theorem inv_powerOn (c : Config) (source : Nat) : Inv (State.powerOn c source) :=
  .of_idle .nil rfl rfl nofun fun _ => rfl

theorem inv_recordFault (h : Inv s) (f : Fault) : Inv (recordFault f s) :=
  { h with faults := insertFault_canonical f h.faults }

theorem inv_returnResult (h : Inv s) (r : LoadResult) : Inv (returnResult r s) := { h with }

theorem inv_resetEvent (h : Inv s) : Inv (resetEvent s) := .of_idle h.faults rfl rfl nofun fun _ => rfl

theorem inv_loadInstance (h : Inv s) (hi : s.phase = .idle) (w : Words) : Inv (loadInstance w s) :=
  .of_idle h.faults hi (h.idle hi) nofun nofun

/-- Finishing a block on a working register that holds the 20 rounds of `S` gives the block of `S`, which is the input state
before the increment. -/
theorem out_finishBlock (hx : s.x = rounds20 s.inputState) :
    (finishBlock s).out = blockFn (finishBlock s).config.byteOrder (finishBlock s).previousInput := by
  rw [previousInput_finishBlock, finishBlock_config, finishBlock_out, blockFn_eq, hx]

theorem inv_finishBlock (h : Inv s) (hi : s.phase = .idle) (hl : s.loaded = true) :
    Inv (finishBlock { s with x := rounds20 s.inputState }) := by
  generalize hw : rounds20 s.inputState = w
  have hx : ({ s with x := w } : State).x = rounds20 ({ s with x := w } : State).inputState := hw.symm
  exact .of_idle h.faults hi (h.idle hi) (fun _ => ⟨hl, Nat.succ_pos _, out_finishBlock hx⟩)
    fun hl' => nomatch hl.symm.trans hl'

theorem inv_acceptStep (h : Inv s) (hl : s.loaded = true) : Inv (acceptStep s) where
  faults := h.faults
  idle := nofun
  mix _ := ⟨Nat.zero_lt_succ _, rfl⟩
  final := nofun
  busy _ := ⟨hl, rfl⟩
  valid := nofun
  unloaded hl' := nomatch hl.symm.trans hl'

theorem inv_finalStep (h : Inv s) (hp : s.phase = .final) : Inv (finalStep s) := by
  obtain ⟨hl, _⟩ := h.busy (by simp [hp])
  obtain ⟨_, hx⟩ := h.final hp
  exact .of_idle h.faults rfl rfl (fun _ => ⟨hl, Nat.succ_pos _, out_finishBlock hx⟩)
    fun hl' => nomatch hl.symm.trans hl'

/-- A MIX step does one more round on `X`, and the 20th leads to the FINAL phase. -/
theorem inv_mixStep (h : Inv s) (hp : s.phase = .mix) : Inv (mixStep s) := by
  obtain ⟨hlt, hx⟩ := h.mix hp
  obtain ⟨hl, hv⟩ := h.busy (by simp [hp])
  have hnext : (s.rnd + 1#5).toNat = s.rnd.toNat + 1 := by bv_omega
  have hx' : (mixStep s).x = roundsUpTo (s.rnd.toNat + 1) s.inputState := by
    rw [mixStep_x, hx, roundsUpTo_succ]
  by_cases h19 : s.rnd = 19#5
  · have hfinal : (mixStep s).phase = .final := by rw [mixStep_phase, if_pos h19]
    refine ⟨h.faults, fun hi => (nomatch hfinal.symm.trans hi), fun hm => (nomatch hfinal.symm.trans hm),
      fun _ => ⟨?_, ?_⟩, fun _ => ⟨hl, hv⟩, h.valid, h.unloaded⟩
    · rw [mixStep_rnd, h19]
      rfl
    · rw [hx', h19, inputState_mixStep, rounds20_eq_roundsUpTo]
      rfl
  · have hmix : (mixStep s).phase = .mix := by rw [mixStep_phase, if_neg h19, hp]
    refine ⟨h.faults, fun hi => (nomatch hmix.symm.trans hi), fun _ => ⟨?_, ?_⟩, fun hf => (nomatch hmix.symm.trans hf),
      fun _ => ⟨hl, hv⟩, h.valid, h.unloaded⟩
    · rw [mixStep_rnd, hnext]
      bv_omega
    · rw [hx', mixStep_rnd, hnext, inputState_mixStep]

theorem inv_sequencerStep (h : Inv s) : Inv (sequencerStep s) := by
  cases hp : s.phase with
  | idle => rwa [sequencerStep_idle hp]
  | mix =>
    rw [sequencerStep_mix hp]
    exact inv_mixStep h hp
  | final =>
    rw [sequencerStep_final hp]
    exact inv_finalStep h hp

/-- Every effect keeps the invariant. -/
theorem Effect.inv {e : HostEvent} {t : State} (hE : Effect e r t) (h : Inv r) : Inv t := by
  cases hE with
  | nothing => exact h
  | fault f => exact inv_recordFault h f
  | rejected => exact inv_returnResult h _
  | loaded _ _ _ _ _ hi => exact inv_returnResult (inv_loadInstance h hi _) _
  | block _ _ hi hl => exact inv_finishBlock h hi hl
  | accepted _ _ _ hl => exact inv_acceptStep h hl
  | sequenced => exact inv_sequencerStep h
  | sequencedFault f => exact inv_recordFault (inv_sequencerStep h) f
  | reset => exact inv_resetEvent h

end Inv

/-- Settles O56: a READ keeps the invariant, and so does every effect of a step. -/
theorem everyStepKeepsTheInvariant : Obligations.EveryStepKeepsTheInvariant := by
  intro s t h hstep
  obtain ⟨r, hr, hE⟩ := step_cases hstep
  exact hE.inv (h.of_sameBlock hr.sameBlock)

/-- Settles O55: power-on leaves an idle machine without an instance and without a block. -/
theorem invariantHoldsAtPowerOn : Obligations.InvariantHoldsAtPowerOn :=
  ⟨inv_powerOn, inv_powerOn Config.default 0⟩

/-! ### WAIT (30_encoding.md R90) -/

/-- NOP beats are steps of the sequencer and nothing else. -/
theorem runEvents_nops (k : Nat) (s : State) :
    runEvents (List.replicate k nopCycle) s = .next { sequencerStep^[k] s with pending := [] } := by
  induction k generalizing s with
  | zero => exact runEvents_nil s
  | succ k ih =>
    have hc := clockCycle_nop { s with pending := List.replicate k nopCycle }
    rw [sequencerStep_with_pending] at hc
    have hfirst := runEvents_cycle hc rfl
    exact hfirst.trans (ih (sequencerStep s))

theorem sequencerStep_iterate_busyCycles {s : State} {n : Nat} (k : Nat) (h : s.busyCycles = n + k) :
    (sequencerStep^[k] s).busyCycles = n := by
  induction k generalizing s with
  | zero => exact h
  | succ k ih => exact ih (sequencerStep_busyCycles h)

theorem sequencerStep_iterate_faults (k : Nat) (s : State) : (sequencerStep^[k] s).faults = s.faults :=
  Function.Iterate.rec (fun t => t.faults = s.faults) rfl (fun t h => (sequencerStep_faults t).trans h) k

/-- The count of the cycles left is right in a state that a run can reach: at 0 no GEN is in progress. -/
theorem Inv.idle_of_busyCycles {s : State} (h : Inv s) (h0 : s.busyCycles = 0) : s.phase = .idle := by
  cases hp : s.phase with
  | idle => rfl
  | final => simp [State.busyCycles, hp] at h0
  | mix =>
    obtain ⟨hlt, _⟩ := h.mix hp
    simp only [State.busyCycles, hp] at h0
    omega

/-- Settles O48: each NOP beat uses up one of the cycles left, and keeps the invariant. -/
theorem waitEndsWithTheBlockFree : Obligations.WaitEndsWithTheBlockFree := by
  refine fun s h => ⟨⟨_, runEvents_nops s.busyCycles s, ?_, sequencerStep_iterate_faults _ s⟩,
    fun k hk => ⟨_, runEvents_nops k s, ?_⟩⟩
  · have hleft : (sequencerStep^[s.busyCycles] s).busyCycles = 0 :=
      sequencerStep_iterate_busyCycles s.busyCycles (Nat.zero_add _).symm
    have hinv : Inv (sequencerStep^[s.busyCycles] s) := Function.Iterate.rec Inv h (fun _ => inv_sequencerStep) _
    exact busy_eq_false.mpr (hinv.idle_of_busyCycles hleft)
  · have hleft : (sequencerStep^[k] s).busyCycles = s.busyCycles - k :=
      sequencerStep_iterate_busyCycles k (by omega)
    exact busy_eq_true.mpr (phase_ne_idle_of_busyCycles (s := sequencerStep^[k] s) (by omega))

end Sys2Proof.Machine

/-! ### The results of LOAD and the block of a GEN (41_state_initializer.md R122, R125, 42_block_generator.md R140) -/

namespace Sys2Proof.Machine

theorem decode_load_lengths {w : CommandWord} {key nonce : List Byte} {ctr : Word} (h : decode w = .load key nonce ctr) :
    key.length = 32 ∧ nonce.length = 12 := by
  have hw := decode_wellFormed w
  rw [h] at hw
  exact lengths_of_wellFormed hw

/-- Settles O33: a LOAD that is not busy lists one result, and the decoder gives LOAD's operands their lengths. -/
theorem loadReturnsItsResult : Obligations.LoadReturnsItsResult := by
  refine ⟨fun s key nonce ctr hi => ?_, fun w _ _ _ => decode_load_lengths, rfl, rfl⟩
  rcases execLoad_cases key nonce ctr s with ⟨hb, _⟩ | ⟨_, hlen, he⟩ | ⟨_, k, n, rfl, rfl, he⟩
  · exact absurd hi hb
  · exact ⟨_, he, by rw [returnResult_results, if_neg hlen]⟩
  · exact ⟨_, he, by simp⟩

/-- Settles O35: the LOAD writes `valid` and leaves `OUT` alone. -/
theorem loadHidesTheOldBlock : Obligations.LoadHidesTheOldBlock :=
  fun _ key nonce ctr hi => ⟨_, exec_load_ok ctr key nonce hi, rfl, rfl, rfl, hostRead_invalid rfl⟩

/-- Finishing a block, as one record update. -/
theorem finishBlock_eq (s : State) : finishBlock s = { s with
    out := serialize s.config.byteOrder (feedback s.x s.inputState)
    counter := (ctrInc s.config.counterMode s.counter s.nonce[0]).1
    nonce := #v[(ctrInc s.config.counterMode s.counter s.nonce[0]).2, s.nonce[1], s.nonce[2]]
    valid := true
    blocksSinceLoad := s.blocksSinceLoad + 1 } := by
  rw [← nonce_set_zero]
  rfl

/-- Settles O37: the GEN finishes a block on the 20 rounds of `S`. -/
theorem genWritesOneBlock : Obligations.GenWritesOneBlock := by
  intro s hi hl
  rw [exec_gen_ok hi hl, finishBlock_eq]
  generalize rounds20 s.inputState = w
  rfl

/-! ### The published zero blocks (95_test_vectors.md V-GEN-1, V-GEN-6) -/

/-- A LOAD and a GEN on a machine at rest: the block of the loaded input state, and the counter after it. -/
theorem runEvents_load_gen (key : Vector Byte 32) (nonce : Vector Byte 12) (c : Word) {s : State} (hi : s.phase = .idle) :
    ∃ t, runEvents [loadCommand key.toList nonce.toList c, genCommand] s = .next t ∧
      t.counter = add32 c 1#32 ∧
      t.nonce = (nonceWords s.config.byteOrder nonce).set 0
        (ctrInc s.config.counterMode c (nonceWords s.config.byteOrder nonce)[0]).2 ∧
      t.valid = true ∧ t.blocksSinceLoad = 1 ∧ t.faults = s.faults ∧
      t.out = blockFn s.config.byteOrder (initState s.config key nonce c) := by
  have hS := inputState_loadInstance_initState s key nonce c
  have hgen := runEvents_genCommand (s := returnResult .ok (loadInstance (initState s.config key nonce c) s)) [] hi rfl
  have hout := out_finishBlock_rounds20 (returnResult .ok (loadInstance (initState s.config key nonce c) s))
  rw [inputState_returnResult, hS] at hgen hout
  generalize rounds20 (initState s.config key nonce c) = w at hgen hout
  refine ⟨_, (runEvents_loadCommand key nonce c _ hi).trans hgen, ?_, ?_, rfl, rfl, rfl, hout⟩
  · exact ctrInc_counter _ _ _
  · exact congrArg (Vector.set · 0 _) (vector3_eta (nonceWords s.config.byteOrder nonce))

/-- Settles O38: the block of the two loaded input states, and the counter after it. -/
theorem genGivesThePublishedZeroBlock : Obligations.GenGivesThePublishedZeroBlock := by
  intro s hi hc
  obtain ⟨t, hrun, hcounter, hnonce, hvalid, hblocks, _, hout⟩ :=
    runEvents_load_gen (Vector.replicate 32 0) (Vector.replicate 12 0) 0 hi
  obtain ⟨t', hrun', hcounter', hnonce', _, _, hfaults', hout'⟩ :=
    runEvents_load_gen (Vector.replicate 32 0) (Vector.replicate 12 0) 0xffffffff hi
  rw [hc] at hnonce hout hnonce' hout'
  refine ⟨⟨t, hrun, hcounter, ?_, hvalid, hblocks, ?_⟩, t', hrun', hcounter', ?_, hfaults', ?_⟩
  · rw [hnonce]
    decide +kernel
  · rw [hout]
    decide +kernel
  · rw [hnonce']
    decide +kernel
  · rw [hout']
    decide +kernel

/-! ### Lines of program text (30_encoding.md R89) -/

/-- Settles O12: the parser, run on the six lines. -/
theorem textLinesStandForTheirCommands : Obligations.TextLinesStandForTheirCommands := by
  unfold Obligations.TextLinesStandForTheirCommands
  decide +kernel

/-! ### The quarter-round as its operations (40_quarter_round.md R103) -/

theorem rotl_eq_rotateLeft (x : Word) {n : Nat} (h : n < 32) : rotl x n = x.rotateLeft n := by
  rw [BitVec.rotateLeft, BitVec.rotateLeftAux, Nat.mod_eq_of_lt h, rotl]

theorem stageAD_eq {n : Nat} (h : n < 32) (a b c d : Word) :
    stageAD n ⟨a, b, c, d⟩ = ⟨a + b, b, c, (d ^^^ (a + b)).rotateLeft n⟩ := by
  rw [← rotl_eq_rotateLeft _ h]
  rfl

theorem stageCB_eq {n : Nat} (h : n < 32) (a b c d : Word) :
    stageCB n ⟨a, b, c, d⟩ = ⟨a, (b ^^^ (c + d)).rotateLeft n, c + d, d⟩ := by
  rw [← rotl_eq_rotateLeft _ h]
  rfl

/-- Settles O20: each of the four stages is three of the twelve operations. -/
theorem quarterRoundIsItsTwelveOperations : Obligations.QuarterRoundIsItsTwelveOperations := by
  refine ⟨fun a b c d => ?_, rfl, rfl, rfl⟩
  rw [qr, stageAD_eq (by decide), stageCB_eq (by decide), stageAD_eq (by decide), stageCB_eq (by decide)]

end Sys2Proof.Machine

/-! ### What a step does to the instance, its flags and its output (10_state.md R23 to R32) -/

namespace Sys2Proof.Machine

/-- What a step that performs the event `e` can do to the registers of the instance, to `OUT` and to the flags: the four ways
in which `loaded` and `valid` can come about. -/
inductive InstanceEffect (e : HostEvent) (r t : State) : Prop
  /-- The reset event. -/
  | reset (resets : resets e = true) (loaded : t.loaded = false) (valid : t.valid = false)
  /-- A successful LOAD, which leaves `OUT` alone (R126). -/
  | load (key nonce : List Byte) (c : Word) (presented : presented e = some (.load key nonce c))
      (lengths : key.length = 32 ∧ nonce.length = 12) (idle : r.phase = .idle) (out : t.out = r.out)
      (loaded : t.loaded = true) (valid : t.valid = false) (blocks : t.blocksSinceLoad = 0)
  /-- A block is completed: only the counter and word 13 move. -/
  | block (key : t.key = r.key)
      (nonce : t.nonce = r.nonce.set 0 (ctrInc r.config.counterMode r.counter r.nonce[0]).2)
      (loaded : t.loaded = r.loaded) (valid : t.valid = true) (blocks : t.blocksSinceLoad = r.blocksSinceLoad + 1)
      (ready : r.loaded = true ∨ r.phase = .final)
  /-- The instance and `OUT` are kept; at most a GEN is accepted. -/
  | kept (key : t.key = r.key) (counter : t.counter = r.counter) (nonce : t.nonce = r.nonce) (out : t.out = r.out)
      (loaded : t.loaded = r.loaded)
      (valid : t.valid = r.valid ∨
        (t.valid = false ∧ r.phase = .idle ∧ r.loaded = true ∧ presented e = some .gen ∧ t.phase = .mix))

namespace InstanceEffect

variable {e : HostEvent} {s r t : State}

theorem recordFault (h : InstanceEffect e r t) (f : Fault) : InstanceEffect e r (recordFault f t) := by
  cases h with
  | reset hr hl hv => exact .reset hr hl hv
  | load key nonce c hp hlen hi ho hl hv hb => exact .load key nonce c hp hlen hi ho hl hv hb
  | block hk hn hl hv hb hready => exact .block hk hn hl hv hb hready
  | kept hk hc hn ho hl hv => exact .kept hk hc hn ho hl hv

/-- The sequencer's own step keeps the instance until the FINAL step completes the block. -/
theorem sequencerStep (e : HostEvent) (hb : r.phase ≠ .idle) : InstanceEffect e r (sequencerStep r) := by
  cases hp : r.phase with
  | idle => exact absurd hp hb
  | mix =>
    rw [sequencerStep_mix hp]
    exact .kept rfl rfl rfl rfl rfl (.inl rfl)
  | final =>
    rw [sequencerStep_final hp]
    exact .block rfl rfl rfl rfl rfl (.inr hp)

theorem of_effect (h : Effect e r t) : InstanceEffect e r t := by
  cases h with
  | nothing | fault | rejected => exact .kept rfl rfl rfl rfl rfl (.inl rfl)
  | loaded k n c _ hp hi =>
    exact .load k.toList n.toList c hp ⟨k.length_toList, n.length_toList⟩ hi rfl rfl rfl rfl
  | block _ _ _ hl => exact .block rfl rfl rfl rfl rfl (.inl hl)
  | accepted _ hp hi hl => exact .kept rfl rfl rfl rfl rfl (.inr ⟨rfl, hi, hl, hp, rfl⟩)
  | sequenced _ hb => exact sequencerStep e hb
  | sequencedFault f _ hb => exact (sequencerStep e hb).recordFault f
  | reset he => exact .reset he rfl rfl

/-- A READ ahead of the effect changes nothing that the effect speaks of. -/
theorem of_sameBlock (hr : SameBlock s r) (h : InstanceEffect e r t) : InstanceEffect e s t := by
  cases h with
  | reset he hl hv => exact .reset he hl hv
  | load key nonce c hp hlen hi ho hl hv hb =>
    exact .load key nonce c hp hlen (hr.phase ▸ hi) (ho.trans hr.out) hl hv hb
  | block hk hn hl hv hb hready =>
    simp only [hr.key, hr.nonce, hr.config, hr.counter, hr.loaded, hr.blocksSinceLoad, hr.phase] at hk hn hl hb hready
    exact .block hk hn hl hv hb hready
  | kept hk hc hn ho hl hv =>
    simp only [hr.key, hr.counter, hr.nonce, hr.out, hr.loaded, hr.valid, hr.phase] at hk hc hn ho hl hv
    exact .kept hk hc hn ho hl hv

theorem of_step (h : step s = .next t) : InstanceEffect s.nextEvent s t :=
  have ⟨_, hr, hE⟩ := step_cases h
  (of_effect hE).of_sameBlock hr.sameBlock

end InstanceEffect

/-- Settles O52: of the four ways, a LOAD alone raises `loaded`, a reset alone lowers it, and a completed block alone raises
`valid`. -/
theorem flagsChangeOnlyAsTheirRulesSay : Obligations.FlagsChangeOnlyAsTheirRulesSay := by
  intro s t h
  cases InstanceEffect.of_step h with
  | reset he hl hv => simp [hl, hv, he]
  | load key nonce c hp hlen hi _ hl hv hb =>
    have hload : s.loadsInstance := ⟨hi, key, nonce, c, hp, hlen⟩
    simp [hl, hv, hb, hload]
  | block _ _ hl hv hb hready =>
    rw [hl, hv]
    exact ⟨fun h0 h1 => (nomatch h0.symm.trans h1), fun h1 h0 => (nomatch h0.symm.trans h1),
      fun _ _ => ⟨hb, hready⟩, nofun⟩
  | kept _ _ _ _ hl hv =>
    rw [hl]
    refine ⟨fun h0 h1 => (nomatch h0.symm.trans h1), fun h1 h0 => (nomatch h0.symm.trans h1), fun h0 h1 => ?_,
      fun h1 h0 => ?_⟩
    · rcases hv with hv | ⟨hv, _⟩ <;> simp [hv, h0] at h1
    · rcases hv with hv | ⟨_, haccept⟩
      · simp [hv, h1] at h0
      · exact .inr (.inr haccept)

/-- Settles O53: of the four ways, only a completed block moves the counter or word 13 of an instance, or writes `OUT`. -/
theorem instanceChangesOnlyByItsCommands : Obligations.InstanceChangesOnlyByItsCommands := by
  intro s t h hreset
  cases InstanceEffect.of_step h with
  | reset he => simp [hreset] at he
  | load key nonce c hp hlen hi ho =>
    have hload : s.loadsInstance := ⟨hi, key, nonce, c, hp, hlen⟩
    exact ⟨absurd hload, absurd hload, absurd ho⟩
  | block hk hn _ hv hb =>
    refine ⟨fun _ => ⟨hk, by simp [hn], by simp [hn], fun hm => ?_⟩, fun _ _ => ⟨hb, hv⟩, fun _ => ⟨hb, hv⟩⟩
    rw [hn, hm, ctrInc_wrap32, Vector.set_getElem_self]
  | kept hk hc hn ho =>
    exact ⟨fun _ => ⟨hk, by rw [hn], by rw [hn], fun _ => hn⟩, fun _ hne => (hne.elim (absurd hc) (absurd hn)),
      absurd ho⟩

/-! ### Recorded faults (60_exceptions.md R213, 70_reset_and_hazards.md R249) -/

theorem Effect.faults_subset {e : HostEvent} {r t : State} (h : Effect e r t) : r.faults ⊆ t.faults := by
  have hinsert (f : Fault) : r.faults ⊆ insertFault f r.faults := fun g hg => (mem_insertFault f g _).mpr (.inr hg)
  cases h with
  | nothing | rejected | loaded | block | accepted | reset => exact List.Subset.refl r.faults
  | fault f => exact hinsert f
  | sequenced => rw [sequencerStep_faults]; exact List.Subset.refl r.faults
  | sequencedFault f => rw [recordFault_faults, sequencerStep_faults]; exact hinsert f

theorem SameBlock.faults_subset {s r : State} (h : SameBlock s r) : s.faults ⊆ r.faults := by
  intro f hf
  rcases h.faults with hr | hr <;> rw [hr]
  · exact hf
  · exact (mem_insertFault ..).mpr (.inr hf)

/-- No step removes a fault. -/
theorem step_faults_subset {s t : State} (h : step s = .next t) : s.faults ⊆ t.faults :=
  have ⟨_, hr, hE⟩ := step_cases h
  List.Subset.trans hr.sameBlock.faults_subset hE.faults_subset

/-- What every step keeps, a run keeps. -/
theorem run_keeps {P : State → Prop} (hP : ∀ s t, step s = .next t → P s → P t) (n : Nat) {s t : State}
    (h : run n s = .next t) (hs : P s) : P t := by
  induction n generalizing s with
  | zero =>
    cases h
    exact hs
  | succ n ih =>
    obtain ⟨u, hu⟩ := everyStepGoesOn s
    rw [run_succ n hu] at h
    exact ih h (hP s u hu hs)

/-- Settles O54: the set of faults only grows, so it stays non-empty along a run. -/
theorem faultedRunsNeverEndSuccessfully : Obligations.FaultedRunsNeverEndSuccessfully := by
  refine ⟨fun s t h _ hf => step_faults_subset h hf, fun n s t hs h => ?_⟩
  have ht : t.faults ≠ [] := run_keeps (P := fun s => s.faults ≠ [])
    (fun s t hstep hne hnil => hne (List.subset_nil.mp (hnil ▸ step_faults_subset hstep))) n h hs
  exact ⟨ht, fun hend => ht hend.2⟩

/-! ### The bytes of XorStream (43_stream_cipher_host.md R190) -/

/-- Byte `i` of the keystream is byte `i mod 64` of block `i / 64`, the block after `i / 64` counter increments. -/
theorem getElem?_keystream {m i : Nat} (s : State) (h : i < 64 * m) : (keystream m s)[i]? =
    some (blockFn s.config.byteOrder (incrementCounter^[i / 64] s).inputState)[i % 64] := by
  induction m generalizing s i with
  | zero => simp at h
  | succ m ih =>
    rw [keystream]
    by_cases hi : i < 64
    · rw [List.getElem?_append_left (by simpa using hi), Nat.div_eq_of_lt hi]
      simp [Nat.mod_eq_of_lt hi, hi]
    · obtain ⟨j, rfl⟩ := Nat.exists_eq_add_of_le (Nat.le_of_not_lt hi)
      have hblock : (64 + j) / 64 = j / 64 + 1 := by omega
      have hplace : (64 + j) % 64 = j % 64 := by omega
      rw [List.getElem?_append_right (by simp), Vector.length_toList, Nat.add_sub_cancel_left, ih _ (by omega)]
      simp only [hblock, hplace, Function.iterate_succ_apply, incrementCounter_config]

/-- Settles O58: the result is the message XOR the keystream, byte by byte. -/
theorem xorStreamUsesSuccessiveBlocks : Obligations.XorStreamUsesSuccessiveBlocks := by
  intro s msg res t hi hl hx i h
  rw [xorStream_eq msg hi hl] at hx
  cases hx
  have hks := length_le_keystream msg.length s
  rw [length_keystream] at hks
  have hbyte := getElem?_keystream s (i := i) (m := blocksFor msg.length) (by omega)
  simp [xorKeystream, List.getElem?_zipWith, hbyte, h]

end Sys2Proof.Machine

/-! ### The counter of both modes and its reuse (42_block_generator.md R151, R161; 43_stream_cipher_host.md R196) -/

namespace Sys2Proof.Machine

theorem counterValue_lt (m : CounterMode) (c n : Word) : counterValue m c n < counterPeriod m := by
  have hc := c.isLt
  have hn := n.isLt
  cases m with
  | wrap32 => exact hc
  | carry64 =>
    simp only [counterValue, counterPeriod]
    omega

/-- In both modes the increment adds one to the counter, modulo its period. -/
theorem counterValue_ctrInc (m : CounterMode) (c n : Word) :
    counterValue m (ctrInc m c n).1 (ctrInc m c n).2 = (counterValue m c n + 1) % counterPeriod m := by
  cases m with
  | wrap32 => exact add32_toNat c 1#32
  | carry64 => exact counterValue_ctrInc_carry64 c n

theorem counterValue_counterAfter (m : CounterMode) (N : Nat) (c n : Word) :
    counterValue m (counterAfter m N (c, n)).1 (counterAfter m N (c, n)).2 =
      (counterValue m c n + N) % counterPeriod m := by
  induction N generalizing c n with
  | zero => exact (Nat.mod_eq_of_lt (counterValue_lt m c n)).symm
  | succ N ih => rw [counterAfter_succ, ← Prod.mk.eta (p := ctrInc m c n), ih, counterValue_ctrInc, Nat.mod_add_mod,
      Nat.add_assoc, Nat.add_comm 1]

/-- Under `CARRY64` the number tells words 12 and 13. -/
theorem counterValue_carry64_inj {c n c' n' : Word} (h : counterValue .carry64 c n = counterValue .carry64 c' n') :
    c = c' ∧ n = n' := by
  have hc := c.isLt
  have hc' := c'.isLt
  simp only [counterValue] at h
  exact ⟨BitVec.eq_of_toNat_eq (by omega), BitVec.eq_of_toNat_eq (by omega)⟩

/-- From one word 13, words 12 and 13 come out the same exactly when the counter values do. -/
theorem counterAfter_eq_iff (m : CounterMode) (i j : Nat) (c c' n : Word) :
    counterAfter m i (c, n) = counterAfter m j (c', n) ↔
      (counterValue m c n + i) % counterPeriod m = (counterValue m c' n + j) % counterPeriod m := by
  rw [← counterValue_counterAfter, ← counterValue_counterAfter]
  refine ⟨fun h => by rw [h], fun h => ?_⟩
  cases m with
  | wrap32 =>
    rw [counterAfter_wrap32, counterAfter_wrap32] at h ⊢
    exact congrArg (·, n) (BitVec.eq_of_toNat_eq h)
  | carry64 =>
    obtain ⟨h1, h2⟩ := counterValue_carry64_inj h
    exact Prod.ext h1 h2

/-- No run changes the configuration. -/
theorem runEvents_config {es : List HostEvent} {s t : State} (h : runEvents es s = .next t) : t.config = s.config :=
  run_keeps (P := fun u => u.config = s.config) (fun _ _ hstep hu => (step_config hstep).trans hu) es.length h rfl

/-! #### The input states that a run uses -/

/-- The counter increment on the words of `S`. -/
def nextInput (m : CounterMode) (w : Words) : Words :=
  (w.set 12 (ctrInc m w[12] w[13]).1).set 13 (ctrInc m w[12] w[13]).2

theorem inputState_incrementCounter_eq_nextInput (s : State) :
    (incrementCounter s).inputState = nextInput s.config.counterMode s.inputState := inputState_incrementCounter s

theorem nextInput_assemble (m : CounterMode) (g : Vector Word 4) (k : Vector Word 8) (c : Word) (n : Vector Word 3) :
    nextInput m (assemble g k c n) = assemble g k (ctrInc m c n[0]).1 (n.set 0 (ctrInc m c n[0]).2) := by
  rw [nextInput, assemble_set_counter, assemble_set_nonce]
  rfl

theorem nextInput_iterate_assemble (m : CounterMode) (i : Nat) (g : Vector Word 4) (k : Vector Word 8) (c : Word)
    (n : Vector Word 3) : (nextInput m)^[i] (assemble g k c n) =
      assemble g k (counterAfter m i (c, n[0])).1 (n.set 0 (counterAfter m i (c, n[0])).2) := by
  induction i generalizing c n with
  | zero =>
    rw [counterAfter, Function.iterate_zero_apply, Function.iterate_zero_apply, Vector.set_getElem_self]
  | succ i ih =>
    rw [Function.iterate_succ_apply, nextInput_assemble, ih, counterAfter_succ]
    simp

/-- The counter value that a LOAD sets. -/
def loadedCounter (cfg : Config) (nonce : Vector Byte 12) (c : Word) : Nat :=
  counterValue cfg.counterMode c (nonceWords cfg.byteOrder nonce)[0]

/-- Two input states after one LOAD each of one key and nonce are the same exactly when their counters are. -/
theorem nextInput_iterate_eq_iff (i j : Nat) (cfg : Config) (key : Vector Byte 32) (nonce : Vector Byte 12) (c c' : Word) :
    (nextInput cfg.counterMode)^[i] (initState cfg key nonce c) =
        (nextInput cfg.counterMode)^[j] (initState cfg key nonce c') ↔
      (loadedCounter cfg nonce c + i) % counterPeriod cfg.counterMode =
        (loadedCounter cfg nonce c' + j) % counterPeriod cfg.counterMode := by
  rw [initState, initState, nextInput_iterate_assemble, nextInput_iterate_assemble, loadedCounter, loadedCounter,
    ← counterAfter_eq_iff]
  refine ⟨fun h => Prod.ext (congrArg (·[12]) h) ?_, fun h => by rw [h]⟩
  simpa [assemble] using congrArg (·[13]) h

/-- A LOAD completes no block, and leaves its own input state. -/
theorem blockInputs_load (n : Nat) {s : State} {key : Vector Byte 32} {nonce : Vector Byte 12} {c : Word}
    {es : List HostEvent} (hp : s.pending = loadCommand key.toList nonce.toList c :: es) (hi : s.phase = .idle) :
    ∃ t, blockInputs (n + 1) s = blockInputs n t ∧ t.phase = .idle ∧ t.loaded = true ∧ t.pending = es ∧
      t.config = s.config ∧ t.inputState = initState s.config key nonce c := by
  have hstep := (step_cons hp).trans (exec_load_ok c key nonce (s := { s with pending := es }) hi)
  have hinput := inputState_loadInstance_initState { s with pending := es } key nonce c
  have hskip : ∀ t, step s = .next t → t.blocksSinceLoad = 0 → blockInputs (n + 1) s = blockInputs n t :=
    fun t ht h0 => by simp [blockInputs, ht, h0]
  exact ⟨_, hskip _ hstep rfl, hi, rfl, rfl, rfl, hinput⟩

/-- A run of `N` GENs uses the input state it starts from and its `N - 1` successors. -/
theorem blockInputs_gens (N n : Nat) {s : State} {es : List HostEvent} (hp : s.pending = List.replicate N genCommand ++ es)
    (hi : s.phase = .idle) (hl : s.loaded = true) :
    ∃ t, blockInputs (N + n) s = List.iterate (nextInput s.config.counterMode) s.inputState N ++ blockInputs n t ∧
      t.phase = .idle ∧ t.pending = es ∧ t.config = s.config := by
  induction N generalizing s with
  | zero => exact ⟨s, by rw [Nat.zero_add]; rfl, hi, hp, rfl⟩
  | succ N ih =>
    obtain ⟨u, hstep, hui, hul, hup, hS, hblock⟩ := blockInputs_gen (N + n) hp hi hl
    have hc := step_config hstep
    obtain ⟨t, hrest, hti, htp, htc⟩ := ih hup hui hul
    rw [hS, hc, inputState_incrementCounter_eq_nextInput] at hrest
    exact ⟨t, by rw [Nat.add_right_comm, hblock, hrest]; rfl, hti, htp, htc.trans hc⟩

/-- A LOAD and `N` GENs use the input state that was loaded and its `N - 1` successors. -/
theorem blockInputs_load_gens (N n : Nat) {s : State} {key : Vector Byte 32} {nonce : Vector Byte 12} {c : Word}
    {es : List HostEvent}
    (hp : s.pending = loadCommand key.toList nonce.toList c :: (List.replicate N genCommand ++ es)) (hi : s.phase = .idle) :
    ∃ t, blockInputs (N + n + 1) s =
        List.iterate (nextInput s.config.counterMode) (initState s.config key nonce c) N ++ blockInputs n t ∧
      t.phase = .idle ∧ t.pending = es ∧ t.config = s.config := by
  obtain ⟨u, hload, hui, hul, hup, huc, huS⟩ := blockInputs_load (N + n) hp hi
  obtain ⟨t, hgens, hti, htp, htc⟩ := blockInputs_gens N n hup hui hul
  exact ⟨t, by rw [hload, hgens, huc, huS], hti, htp, htc.trans huc⟩

/-- The input states of the blocks that follow two LOADs, each with its GENs. -/
theorem blockInputs_two_loads {s : State} (key : Vector Byte 32) (nonce : Vector Byte 12) (c c' : Word) (N N' : Nat)
    (hi : s.phase = .idle) :
    blockInputs (N + N' + 2) { s with
        pending := (loadCommand key.toList nonce.toList c :: List.replicate N genCommand) ++
          (loadCommand key.toList nonce.toList c' :: List.replicate N' genCommand) } =
      (List.range N).map (fun i => (nextInput s.config.counterMode)^[i] (initState s.config key nonce c)) ++
        (List.range N').map (fun i => (nextInput s.config.counterMode)^[i] (initState s.config key nonce c')) := by
  obtain ⟨t, ht, hti, htp, htc⟩ := blockInputs_load_gens N (N' + 1) (s := { s with
    pending := (loadCommand key.toList nonce.toList c :: List.replicate N genCommand) ++
      (loadCommand key.toList nonce.toList c' :: List.replicate N' genCommand) }) rfl hi
  obtain ⟨u, hu, _⟩ := blockInputs_load_gens N' 0 (es := []) (htp.trans (by rw [List.append_nil])) hti
  rw [Nat.add_zero, htc] at hu
  rw [List.range_map_iterate, List.range_map_iterate]
  exact ht.trans (by rw [hu, blockInputs, List.append_nil])

/-- The first `N` of the numbers that count up from `c` modulo `p` are distinct exactly when `N` is at most `p`. -/
theorem distinct_mod_iff {p : Nat} (hp : 0 < p) (c N : Nat) :
    (∀ i < N, ∀ j < N, (c + i) % p = (c + j) % p → i = j) ↔ N ≤ p := by
  constructor
  · intro h
    by_contra hN
    have hwrap := h 0 (by omega) p (by omega) (Nat.add_mod_right c p).symm
    omega
  · intro hN i hi j hj hij
    have hmod : i ≡ j [MOD p] := Nat.ModEq.add_left_cancel' c hij
    exact hmod.eq_of_lt_of_lt (by omega) (by omega)

theorem counterPeriod_pos (m : CounterMode) : 0 < counterPeriod m := by
  cases m <;> exact Nat.two_pow_pos _

/-- The duty of R196 over the blocks that follow two LOADs of one key and nonce: two ranges of counters, neither longer than
the period and not overlapping. -/
theorem noReuse_two_loads_iff {s : State} (key : Vector Byte 32) (nonce : Vector Byte 12) (c c' : Word) (N N' : Nat)
    (hi : s.phase = .idle) :
    noReuse [(N + N' + 2, { s with
        pending := (loadCommand key.toList nonce.toList c :: List.replicate N genCommand) ++
          (loadCommand key.toList nonce.toList c' :: List.replicate N' genCommand) })] ↔
      N ≤ counterPeriod s.config.counterMode ∧ N' ≤ counterPeriod s.config.counterMode ∧
        ∀ i j, i < N → j < N' → (loadedCounter s.config nonce c + i) % counterPeriod s.config.counterMode ≠
          (loadedCounter s.config nonce c' + j) % counterPeriod s.config.counterMode := by
  have hp := counterPeriod_pos s.config.counterMode
  rw [noReuse, List.flatMap_singleton, blockInputs_two_loads key nonce c c' N N' hi, List.nodup_append,
    List.nodup_map_iff_inj_on List.nodup_range, List.nodup_map_iff_inj_on List.nodup_range]
  simp only [List.mem_range, List.forall_mem_map, nextInput_iterate_eq_iff, distinct_mod_iff hp, ne_eq]
  exact and_congr_right' (and_congr_right' ⟨fun h i j hi hj => h i hi j hj, fun h i hi j hj => h i j hi hj⟩)

/-- Settles O41: each GEN adds one to the counter modulo its period, and the input states of two LOADs of one key and nonce
differ in the counter alone. -/
theorem longCounterAdvancesOncePerBlock : Obligations.LongCounterAdvancesOncePerBlock := by
  refine ⟨fun s N hm hi hl => ?_, fun s key nonce c c' N N' p v hi hp hv => ?_⟩
  · obtain ⟨t, hrun, hblocks, hkey, hcounter, hnonce⟩ := runEvents_gens N hi hl
    have hmode : t.config.counterMode = .carry64 := by rw [runEvents_config hrun, hm]
    refine ⟨t, hrun, ?_, hblocks, hkey, by simp [hnonce], by simp [hnonce]⟩
    rw [State.counterValue, State.counterValue, hmode, hm, hcounter, hnonce, hm, Vector.getElem_set_self]
    exact counterValue_counterAfter .carry64 N s.counter s.nonce[0]
  · subst hp hv
    exact noReuse_two_loads_iff key nonce c c' N N' hi

end Sys2Proof.Machine
